-- ==== Sys2Proof/Word.lean ====
section
/-! DEFINITION. The word and byte types of the engine (spec/00_scope.md R3, R6, R7). -/

namespace Sys2Proof

/-- A datapath value: seed, accumulator, chunk, length, result, command word. 64 bits, unsigned (R3, R7). -/
abbrev Word := BitVec 64

/-- One message byte (R9). -/
abbrev Byte := BitVec 8

end Sys2Proof
end

