-- ==== Sys2Proof/Syntax.lean ====
section
/-! DEFINITION. The engine's commands: one constructor per row of spec/opcode_table.json (spec/30_encoding.md R73). -/

namespace Sys2Proof

/-- A command. The engine's only "instruction" is the word a host writes to CMD (R70). -/
inductive Instr where
  /-- NOP (R121). -/
  | nop
  /-- START (R122): begin a hash with the seed in SEED and the length in LEN. -/
  | start
  /-- ABSORB n (R123): take the `n` low byte lanes of DATA. `n` is the value of NBYTES, 0 to 15 (R72). -/
  | absorb (n : Nat)
  /-- FINISH (R124): fold the tail, finalize, publish the result. -/
  | finish
  /-- ABORT (R125): return to IDLE and clear the error flags. -/
  | abort
  deriving DecidableEq, Repr

end Sys2Proof
end

