-- ==== Sys2Proof/WellFormed.lean ====
section
/-! DEFINITION. Which commands the encoding can spell (spec/30_encoding.md R71, R79). -/

namespace Sys2Proof

/-- NBYTES is a 4-bit field (R71); "n outside 0 to 15 does not assemble" (R79). The values 0 and 9 to 15 are well-formed:
they are the BAD_NBYTES error at execution, not an encoding error (R72, R78). -/
def Instr.wf : Instr → Bool
  | .nop => true
  | .start => true
  | .absorb n => decide (n < 16)
  | .finish => true
  | .abort => true

end Sys2Proof
end

