-- ==== Sys2Proof/Decode.lean ====
section
/-! DEFINITION. The command decoder and encoder (spec/30_encoding.md R70 to R78). -/

namespace Sys2Proof

/-- Why a command word is Illegal. The engine records one code, ILLEGAL_CMD, for all three (R161); the model names which
rule refused the word (notes/assumptions/14.md). -/
inductive IllegalReason where
  /-- A bit of RSV0 or RSV1 is set (R75). -/
  | reservedBits
  /-- NBYTES is not 0 and OP is not ABSORB (R76). -/
  | nbytesOutsideAbsorb
  /-- OP is 0x4 to 0xE (R74). -/
  | reservedOp
  deriving DecidableEq, Repr

/-- What a command word decodes to (R78). -/
inductive Decoded where
  | instr (i : Instr)
  | illegal (r : IllegalReason)
  deriving DecidableEq, Repr

/-- OP = w[3:0] (R71, R72). -/
def opField (w : Word) : BitVec 4 := w.extractLsb' 0 4

/-- RSV0 = w[7:4] (R71). -/
def rsv0Field (w : Word) : BitVec 4 := w.extractLsb' 4 4

/-- NBYTES = w[11:8] (R71, R72). -/
def nbytesField (w : Word) : BitVec 4 := w.extractLsb' 8 4

/-- RSV1 = w[63:12] (R71). -/
def rsv1Field (w : Word) : BitVec 52 := w.extractLsb' 12 52

/-- The decoder, total on every 64-bit word, its tests in the order of R78. -/
def decode (w : Word) : Decoded :=
  if rsv1Field w ≠ 0 ∨ rsv0Field w ≠ 0 then .illegal .reservedBits
  else if opField w = 0x2 then .instr (.absorb (nbytesField w).toNat)
  else if nbytesField w ≠ 0 then .illegal .nbytesOutsideAbsorb
  else if opField w = 0x0 then .instr .nop
  else if opField w = 0x1 then .instr .start
  else if opField w = 0x3 then .instr .finish
  else if opField w = 0xF then .instr .abort
  else .illegal .reservedOp

/-- The command word of a command (R73): for ABSORB `0x2 | (n << 8)`. -/
def encode : Instr → Word
  | .nop => 0x0
  | .start => 0x1
  | .absorb n => 0x2 ||| (BitVec.ofNat 64 n <<< 8)
  | .finish => 0x3
  | .abort => 0xF

/-- The match value of the command's row of the opcode map (R73). -/
def matchOf : Instr → Word
  | .nop => 0x0
  | .start => 0x1
  | .absorb _ => 0x2
  | .finish => 0x3
  | .abort => 0xF

/-- The mask of the command's row of the opcode map (R73). -/
def maskOf : Instr → Word
  | .nop => 0xFFFFFFFFFFFFFFFF
  | .start => 0xFFFFFFFFFFFFFFFF
  | .absorb _ => 0xFFFFFFFFFFFFF0FF
  | .finish => 0xFFFFFFFFFFFFFFFF
  | .abort => 0xFFFFFFFFFFFFFFFF

/-- The command a decoding stands for, none for an Illegal word. -/
def Decoded.toInstr : Decoded → Option Instr
  | .instr i => some i
  | .illegal _ => none

/-- The command the decoder reads from the table word `w` of `nbits` bits; bit 0 is the least significant bit (R6, R71).
A word that does not fit 64 bits is no command word (R70). -/
def decodeTableWord (nbits w : Nat) : Option Instr :=
  if w % 2 ^ nbits < 2 ^ 64 then (decode (BitVec.ofNat 64 (w % 2 ^ nbits))).toInstr else none

end Sys2Proof
end

