-- ==== Sys2Proof/Config.lean ====
section
/-! DEFINITION. What a platform fixes and the spec leaves OPEN: the place of the register window (spec/92_eei_decisions.md D2). -/

namespace Sys2Proof.Config

/-- Which 64-byte block of the host's physical address space holds the register window. OPEN in the spec (D2, U9), so it
has no body: no proof can see its value (notes/assumptions/4.md). -/
opaque windowBlock : Nat

/-- The size of the register window in bytes (R53). -/
def windowBytes : Nat := 64

/-- ENGINE_BASE: a platform parameter, a multiple of 64 (R53, D2). -/
def engineBase : Nat := windowBytes * windowBlock

end Sys2Proof.Config
end

