-- ==== Sys2Proof/Machine/State.lean ====
section
/-! DEFINITION. The engine's state (spec/10_state.md R22 to R38), the host events that reach it (spec/20_memory.md R53 to
R60, spec/70_reset_and_hazards.md R180) and the reasons a step can stop. -/

namespace Sys2Proof.Machine

open Sys2Proof

/-- PHASE, the engine's control state (R31). The value 3 is never reached, no rule writes it, and it is not a value of
this type (notes/assumptions/8.md). -/
inductive Phase where
  /-- 0: no hash in progress. -/
  | idle
  /-- 1: a hash is in progress. -/
  | absorb
  /-- 2: a hash has finished and RESULT holds it. -/
  | done
  deriving DecidableEq, Repr

/-- The command errors of R161. They are recorded, never trapped (R160, R167): none of them stops the machine. -/
inductive CmdError where
  /-- Code 1: the CMD word decodes as Illegal. -/
  | illegalCmd
  /-- Code 2: the command is not accepted in the current phase. -/
  | sequence
  /-- Code 3: ABSORB with NBYTES = 0 or NBYTES > 8. -/
  | badNbytes
  /-- Code 4: ABSORB whose bytes would take CNT past LATLEN. -/
  | overrun
  /-- Code 5: FINISH with CNT not LATLEN. -/
  | underrun
  deriving DecidableEq, Repr

/-- The eight registers of the window (10_state.md section 3). -/
inductive Reg where
  | cmd
  | status
  | seed
  | len
  | data
  | result
  | hacc
  | count
  deriving DecidableEq, Repr

/-- Where a host access goes. -/
inductive Target where
  /-- An offset from ENGINE_BASE, as `HostWrite(off, v)` and `HostRead(off)` take it (R8, R140, R141). -/
  | offset (off : Nat)
  /-- A host physical address, which the platform's decoder compares with the window (R53). -/
  | address (a : Nat)
  deriving DecidableEq, Repr

/-- What can reach the engine from outside: the two host accesses and the reset input (R20, R140, R141, R180). An access
carries its width in bits, because the spec admits one width only (R56). -/
inductive HostEvent where
  /-- A read of `bits` bits. -/
  | read (bits : Nat) (target : Target)
  /-- A write of `bits` bits of the value `v`. -/
  | write (bits : Nat) (target : Target) (v : Word)
  /-- The platform drives the reset input: `true` asserts it, `false` releases it. -/
  | drive (asserted : Bool)
  deriving DecidableEq, Repr

/-- The machine: the engine's internal elements, exactly those of R30; then the level of the reset input (R180); then
two fields of the MODEL's own, the events not yet received and the values reads have returned
(notes/assumptions/1.md, 2.md). -/
structure State where
  /-- PHASE (R31). -/
  phase : Phase
  /-- H, the accumulator. -/
  h : Word
  /-- BUF, the partial chunk (R32). -/
  buf : Word
  /-- BUFCNT, the bytes in BUF (R32). -/
  bufcnt : BitVec 3
  /-- LATLEN, the length latched at START (R33). -/
  latlen : Word
  /-- CNT, the bytes absorbed since START (R29). -/
  cnt : Word
  /-- RES, the last result (R27). -/
  res : Word
  /-- ERR, the sticky error flag (R34). -/
  err : Bool
  /-- ERRCODE, the first error code (R34). -/
  errcode : BitVec 4
  /-- SEEDR, the storage of SEED (R24). -/
  seedr : Word
  /-- LENR, the storage of LEN (R25). -/
  lenr : Word
  /-- DATAR, the storage of DATA (R26). -/
  datar : Word
  /-- The level of the reset input, a platform input (R180). -/
  resetLine : Bool
  /-- MODEL: host events in the order the engine receives them, oldest first (R60). -/
  inbox : List HostEvent
  /-- MODEL: the values the admitted reads returned, oldest first (R141). -/
  replies : List Word
  deriving DecidableEq, Repr

/-- The spec gives the engine no fault: "The engine has no traps" (R167), no interrupt (R166), no bus error (R160), and a
command error is recorded in a next state (R160). So nothing raises a fault and the type has no constructor
(notes/assumptions/12.md). -/
inductive Fault where
  deriving DecidableEq, Repr

/-- Why the engine takes no step. All but `notModelled` are accesses the spec says are not admitted. -/
inductive Refusal where
  /-- An arm of exec without a meaning. No arm answers it. Safe. -/
  | notModelled (mnemonic : String)
  /-- An access while reset is asserted: "While reset is asserted no host access is admitted" (R180). Safe. -/
  | heldInReset
  /-- An access outside the register window: the platform's, "the engine model has no step for them" (U8, R142). Safe. -/
  | outsideWindow
  /-- An access of a width other than 64 bits: not admitted (R56, U7). Safe. -/
  | accessWidth
  /-- A 64-bit access at an offset that is not a multiple of 8: not admitted (R56, U7). Safe. -/
  | misaligned
  deriving DecidableEq, Repr

/-- The machine right after reset is released: every state element is 0 (R37, R180), the reset input is not asserted, and
no event waits. -/
def State.reset : State where
  phase := .idle
  h := 0
  buf := 0
  bufcnt := 0
  latlen := 0
  cnt := 0
  res := 0
  err := false
  errcode := 0
  seedr := 0
  lenr := 0
  datar := 0
  resetLine := false
  inbox := []
  replies := []

end Sys2Proof.Machine
end

