-- ==== Sys2Proof/Machine/Flags.lean ====
section
/-! DEFINITION. The engine's only flags, ERR and ERRCODE (spec/10_state.md R34), and the STATUS word (R23). -/

namespace Sys2Proof.Machine

open Sys2Proof

/-- The code of a command error (R161). -/
def errorCode : CmdError → BitVec 4
  | .illegalCmd => 1
  | .sequence => 2
  | .badNbytes => 3
  | .overrun => 4
  | .underrun => 5

/-- ERRCODE after a command error: the error's code only when ERRCODE is 0, "so it keeps the first code" (R34, R160). -/
def recordCode (old : BitVec 4) (e : CmdError) : BitVec 4 :=
  if old = 0 then errorCode e else old

/-- PHASE as the two bits of STATUS[1:0] (R23, R31). -/
def phaseBits : Phase → BitVec 2
  | .idle => 0
  | .absorb => 1
  | .done => 2

/-- The STATUS word, assembled from internal state at each read (R23). -/
def statusWord (s : State) : Word :=
  (phaseBits s.phase).setWidth 64 ||| (s.bufcnt.setWidth 64 <<< 4) ||| ((BitVec.ofBool s.err).setWidth 64 <<< 8)
    ||| (s.errcode.setWidth 64 <<< 12)

end Sys2Proof.Machine
end

