-- ==== Sys2Proof/Machine/Operands.lean ====
section
/-! DEFINITION. Byte order and operands: byte lanes, little-endian words, the DATA lanes of an ABSORB, its byte count, the
register a host access names (spec/00_scope.md R6, R8; spec/20_memory.md R50 to R56; spec/30_encoding.md R72). -/

namespace Sys2Proof.Machine

open Sys2Proof

/-- Byte `j` of a 64-bit value: bits `8j+7:8j` (R6). -/
def byteLane (v : Word) (j : Nat) : Byte := v.extractLsb' (8 * j) 8

/-- The little-endian sum of R8 and R50 with the first byte at lane `i`. -/
def le64At (i : Nat) : List Byte → Word
  | [] => 0
  | b :: bs => (b.setWidth 64 <<< (8 * i)) + le64At (i + 1) bs

/-- `le64(b_0, ..., b_{n-1})`: byte `i` at bits `8i+7:8i` (R8, R50). -/
def le64 (bs : List Byte) : Word := le64At 0 bs

/-- Lanes 0 to `n - 1` of DATA, lane 0 the earliest message byte (R51). -/
def lanes (data : Word) (n : Nat) : List Byte := (List.range n).map (byteLane data)

/-- The legal byte counts of ABSORB are 1 to 8 (R72, R161). -/
def badByteCount (n : Nat) : Bool := n == 0 || 8 < n

/-- The byte offset of a register in the window (10_state.md section 3). -/
def Reg.offset : Reg → Nat
  | .cmd => 0x00
  | .status => 0x08
  | .seed => 0x10
  | .len => 0x18
  | .data => 0x20
  | .result => 0x28
  | .hacc => 0x30
  | .count => 0x38

/-- The register an offset names: every multiple of 8 below 0x40 names one (R142). -/
def regAt (off : Nat) : Option Reg :=
  if off = 0x00 then some .cmd
  else if off = 0x08 then some .status
  else if off = 0x10 then some .seed
  else if off = 0x18 then some .len
  else if off = 0x20 then some .data
  else if off = 0x28 then some .result
  else if off = 0x30 then some .hacc
  else if off = 0x38 then some .count
  else none

end Sys2Proof.Machine
end

