-- ==== Sys2Proof/Machine/Mix.lean ====
section
/-! DEFINITION. The combinational 64bit_multiply_shift_mix unit and the whole-message function hash64
(spec/40_mix_datapath.md R100 to R107). -/

namespace Sys2Proof.Machine

open Sys2Proof

/-- The multiplier M (R4). -/
def multiplier : Word := 0xc6a4a7935bd1e995

/-- The shift amount R (R4): a logical right shift, no rotation (C2). -/
def shiftAmount : Nat := 47

/-- Multiply by the constant, keeping the low 64 bits (R100). -/
def mulm (x : Word) : Word := x * multiplier

/-- Xor with the logical right shift by 47 (R101). -/
def xs (x : Word) : Word := x ^^^ (x >>> shiftAmount)

/-- The chunk mix (R102). -/
def mixk (k : Word) : Word := mulm (xs (mulm k))

/-- Fold one chunk into the accumulator (R103). -/
def chunkStep (h k : Word) : Word := mulm (h ^^^ mixk k)

/-- Xor tail byte `i` into the accumulator at bits `8i+7:8i` (R104). -/
def tailXor (u : List Byte) (h : Word) (i : Nat) : Word := h ^^^ ((u.getD i 0).setWidth 64 <<< (8 * i))

/-- Fold the tail, from its last byte down to byte 0, then multiply exactly once, for every length including 0 (R104, C1;
notes/assumptions/10.md). -/
def tailStep (h : Word) (u : List Byte) : Word := mulm ((List.range u.length).reverse.foldl (tailXor u) h)

/-- Finalization (R105). -/
def fin (h : Word) : Word := xs (mulm (xs h))

/-- The initial accumulator (R106). -/
def init (seed n : Word) : Word := seed ^^^ mulm n

/-- Chunk `c` of a message, read little-endian (R9, R50). -/
def chunkAt (b : List Byte) (c : Nat) : Word := le64 ((b.drop (8 * c)).take 8)

/-- The tail of a message, its last `N mod 8` bytes (R9). -/
def tailOf (b : List Byte) : List Byte := b.drop (8 * (b.length / 8))

/-- The accumulator after every complete chunk of the message, in order from the start (the loop of R107). -/
def chunkFold (b : List Byte) (h : Word) : Word :=
  (List.range (b.length / 8)).foldl (fun a c => chunkStep a (chunkAt b c)) h

/-- The whole-message function (R107). The length enters as a 64-bit number (R106, D24). -/
def hash64 (b : List Byte) (seed : Word) : Word :=
  fin (tailStep (chunkFold b (init seed (BitVec.ofNat 64 b.length))) (tailOf b))

end Sys2Proof.Machine
end

