-- ==== Sys2Proof/Machine/Ops.lean ====
section
/-! DEFINITION. The operations the commands and the host accesses share: raising and clearing a command error
(spec/60_exceptions.md R160, R164), the absorb loop (spec/41_stream_commands.md R123), the phase table (R127), ABORT's and
reset's values (spec/10_state.md R37, R38), and the registers a host access reads and writes (spec/42_register_access.md). -/

namespace Sys2Proof.Machine

open Sys2Proof

/-- `raise CmdError(code)`: exactly this effect and no other (R160). It is what the engine has in place of an exception. -/
def raiseCmdError (e : CmdError) (s : State) : State :=
  { s with err := true, errcode := recordCode s.errcode e }

/-- Clear ERR and ERRCODE: only ABORT and reset do (R164). It is what the engine has in place of a return from an exception. -/
def clearCmdError (s : State) : State :=
  { s with err := false, errcode := 0 }

/-- Every hashing element to its reset value; SEEDR, LENR, DATAR and the flags are kept (R37, R38). -/
def clearHash (s : State) : State :=
  { s with phase := .idle, h := 0, buf := 0, bufcnt := 0, latlen := 0, cnt := 0, res := 0 }

/-- Storage of SEED, LEN and DATA to 0 (R37). -/
def clearStorage (s : State) : State :=
  { s with seedr := 0, lenr := 0, datar := 0 }

/-- The reset of every state element (R37). -/
def resetEngine (s : State) : State := clearStorage (clearCmdError (clearHash s))

/-- The state START leaves when it is accepted: SEED and LEN are sampled here and nowhere else (R122, R183). -/
def beginHash (s : State) : State :=
  { s with
    phase := .absorb, h := init s.seedr s.lenr, latlen := s.lenr, cnt := 0, buf := 0, bufcnt := 0, res := 0 }

/-- The state FINISH leaves when it is accepted, `r` being the finalized accumulator (R124). -/
def publish (r : Word) (s : State) : State :=
  { s with h := r, res := r, buf := 0, bufcnt := 0, phase := .done }

/-- The local variables of the loop of R123: the accumulator, the chunk being assembled and its number of bytes. -/
structure ChunkAcc where
  h : Word
  buf : Word
  cnt : Nat
  deriving DecidableEq, Repr

/-- One turn of the loop of R123: the byte goes to the next lane, and a full chunk is mixed at once. -/
def absorbByte (a : ChunkAcc) (b : Byte) : ChunkAcc :=
  let buf := a.buf ||| (b.setWidth 64 <<< (8 * a.cnt))
  if a.cnt + 1 = 8 then { h := chunkStep a.h buf, buf := 0, cnt := 0 }
  else { h := a.h, buf := buf, cnt := a.cnt + 1 }

/-- The loop of R123 over the bytes of an ABSORB, lane 0 first. -/
def absorbBytes (a : ChunkAcc) (bs : List Byte) : ChunkAcc := bs.foldl absorbByte a

/-- The loop's variables at the start of an ABSORB (R123). -/
def chunkAcc (s : State) : ChunkAcc := { h := s.h, buf := s.buf, cnt := s.bufcnt.toNat }

/-- The writes at the end of an ABSORB of `n` bytes, `a` being the loop's variables (R123). -/
def storeAbsorbed (a : ChunkAcc) (n : Nat) (s : State) : State :=
  { s with h := a.h, buf := a.buf, bufcnt := BitVec.ofNat 3 a.cnt, cnt := s.cnt + BitVec.ofNat 64 n }

/-- `n > LATLEN - CNT`, an exact difference (R123; notes/assumptions/9.md). -/
def overruns (n : Nat) (s : State) : Bool :=
  decide ((s.latlen.toNat : Int) - (s.cnt.toNat : Int) < (n : Int))

/-- Which command each phase accepts (R127): true exactly in the cells of the table that are not a SEQUENCE error. -/
def accepts : Phase → Instr → Bool
  | _, .nop => true
  | p, .start => p != .absorb
  | p, .absorb _ => p == .absorb
  | p, .finish => p == .absorb
  | _, .abort => true

/-- The value a read of a register returns (R141). CMD is write-only and reads 0 (R22). -/
def readReg (r : Reg) (s : State) : Word :=
  match r with
  | .cmd => 0
  | .status => statusWord s
  | .seed => s.seedr
  | .len => s.lenr
  | .data => s.datar
  | .result => s.res
  | .hacc => s.h
  | .count => s.cnt

/-- What a write stores (R140): SEED, LEN and DATA keep the value; STATUS, RESULT, HACC and COUNT ignore it; CMD has no
storage (R22), its command is run by `hostWrite`. -/
def storeReg (r : Reg) (v : Word) (s : State) : State :=
  match r with
  | .cmd => s
  | .status => s
  | .seed => { s with seedr := v }
  | .len => { s with lenr := v }
  | .data => { s with datar := v }
  | .result => s
  | .hacc => s
  | .count => s

/-- The offset in the window that a target names, none outside the window (R53, R142). -/
def windowOffset : Target → Option Nat
  | .offset off => if off < Config.windowBytes then some off else none
  | .address a =>
    if Config.engineBase ≤ a ∧ a < Config.engineBase + Config.windowBytes then some (a - Config.engineBase) else none

/-- The register an access of `bits` bits at an offset of the window names, or why it is not admitted (R56). -/
def selectOffset (bits off : Nat) : Except Refusal Reg :=
  if bits ≠ 64 then .error .accessWidth
  else
    match regAt off with
    | some r => .ok r
    | none => .error .misaligned

/-- The register an access names, or why the engine takes no step for it (R56, R142, R180). -/
def selectReg (bits : Nat) (target : Target) (s : State) : Except Refusal Reg :=
  if s.resetLine then .error .heldInReset
  else
    match windowOffset target with
    | none => .error .outsideWindow
    | some off => selectOffset bits off

/-- The value of an admitted read goes to the host (R141); reading changes nothing else (R59). -/
def reply (v : Word) (s : State) : State := { s with replies := s.replies ++ [v] }

/-- The platform drives the reset input (R180): when the asserted input is released every state element has its reset
value (notes/assumptions/3.md). -/
def driveReset (asserted : Bool) (s : State) : State :=
  if asserted then { s with resetLine := true }
  else if s.resetLine then { resetEngine s with resetLine := false }
  else s

end Sys2Proof.Machine
end

