-- ==== Sys2Proof/Machine/Control.lean ====
section
/-! DEFINITION. The control commands NOP and ABORT (spec/41_stream_commands.md R121, R125). -/

namespace Sys2Proof.Machine

open Sys2Proof

/-- NOP: no state changes; accepted in every phase (R121). -/
def execNop (s : State) : Host.Outcome State Fault Refusal := .next s

/-- ABORT: to IDLE with the flags cleared; SEEDR, LENR and DATAR are kept; accepted in every phase (R125, R38). -/
def execAbort (s : State) : Host.Outcome State Fault Refusal := .next (clearCmdError (clearHash s))

end Sys2Proof.Machine
end

