-- ==== Sys2Proof/Machine/Stream.lean ====
section
/-! DEFINITION. The hashing commands START, ABSORB and FINISH (spec/41_stream_commands.md R122, R123, R124). A command
error is a next state (spec/60_exceptions.md R160). -/

namespace Sys2Proof.Machine

open Sys2Proof

/-- START (R122): SEQUENCE in ABSORB; else the hash of the seed in SEED and the length in LEN begins. -/
def execStart (s : State) : Host.Outcome State Fault Refusal :=
  if s.phase = .absorb then .next (raiseCmdError .sequence s)
  else .next (beginHash s)

/-- ABSORB n (R123), its checks in the order of R162. -/
def execAbsorb (n : Nat) (s : State) : Host.Outcome State Fault Refusal :=
  if s.phase ≠ .absorb then .next (raiseCmdError .sequence s)
  else if badByteCount n then .next (raiseCmdError .badNbytes s)
  else if overruns n s then .next (raiseCmdError .overrun s)
  else .next (storeAbsorbed (absorbBytes (chunkAcc s) (lanes s.datar n)) n s)

/-- FINISH (R124): the tail is `BUF`, the multiply happens once for every tail length including 0 (R104, R108). -/
def execFinish (s : State) : Host.Outcome State Fault Refusal :=
  if s.phase ≠ .absorb then .next (raiseCmdError .sequence s)
  else if s.cnt ≠ s.latlen then .next (raiseCmdError .underrun s)
  else .next (publish (fin (mulm (s.h ^^^ s.buf))) s)

end Sys2Proof.Machine
end

