-- ==== Sys2Proof/Machine/Access.lean ====
section
/-! DEFINITION. The host's accesses and the events of the platform (spec/42_register_access.md R140, R141;
spec/41_stream_commands.md R120; spec/70_reset_and_hazards.md R180). -/

namespace Sys2Proof.Machine

open Sys2Proof

/-- The command written to CMD (R120). Each meaning makes its own phase check, as R122 to R124 write it
(notes/assumptions/15.md). -/
def runCommand (w : Word) (s : State) : Host.Outcome State Fault Refusal :=
  match decode w with
  | .instr i => exec i s
  | .illegal _ => .next (raiseCmdError .illegalCmd s)

/-- HostWrite to a register (R140): a write to CMD runs a command, every other write stores or is ignored. -/
def hostWrite (r : Reg) (v : Word) (s : State) : Host.Outcome State Fault Refusal :=
  match r with
  | .cmd => runCommand v s
  | .status => .next (storeReg .status v s)
  | .seed => .next (storeReg .seed v s)
  | .len => .next (storeReg .len v s)
  | .data => .next (storeReg .data v s)
  | .result => .next (storeReg .result v s)
  | .hacc => .next (storeReg .hacc v s)
  | .count => .next (storeReg .count v s)

/-- HostRead of a register (R141): the value goes to the host, and no state of the engine changes (R59). -/
def hostRead (r : Reg) (s : State) : Host.Outcome State Fault Refusal := .next (reply (readReg r s) s)

/-- One host event, received by the engine. -/
def perform (e : HostEvent) (s : State) : Host.Outcome State Fault Refusal :=
  match e with
  | .read bits target =>
    match selectReg bits target s with
    | .ok r => hostRead r s
    | .error why => .refused why
  | .write bits target v =>
    match selectReg bits target s with
    | .ok r => hostWrite r v s
    | .error why => .refused why
  | .drive asserted => .next (driveReset asserted s)

/-- The engine receives the oldest event; with none it waits, unchanged (R20, R60, R181; notes/assumptions/1.md). -/
def receive (s : State) : Host.Outcome State Fault Refusal :=
  match s.inbox with
  | [] => .next s
  | e :: rest => perform e { s with inbox := rest }

/-- The host event that issues the command word `w`: a 64-bit write to CMD (R22, R70). -/
def commandEvent (w : Word) : HostEvent := .write 64 (.offset Reg.cmd.offset) w

/-- `s` with the command word `w` of `nbits` bits the next event the engine receives, and the reset input not asserted,
since no access is admitted while it is (R180; notes/assumptions/11.md). -/
def issueWord (s : State) (nbits w : Nat) : State :=
  { s with inbox := commandEvent (BitVec.ofNat 64 (w % 2 ^ nbits)) :: s.inbox, resetLine := false }

end Sys2Proof.Machine
end

