-- ==== Sys2Proof/Machine/Step.lean ====
section
/-! DEFINITION. One step: the engine receives one host event (spec/10_state.md R20, spec/20_memory.md R60). -/

namespace Sys2Proof.Machine

open Sys2Proof

/-- One step of the machine: one access or one event of the platform, complete and atomic (R58, R186). -/
def step (s : State) : Host.Outcome State Fault Refusal := receive s

/-- `s` with the command word `w` the next event the engine receives. -/
def State.withFetchWord (s : State) (nbits w : Nat) : State := issueWord s nbits w

end Sys2Proof.Machine
end

