-- ==== Sys2Proof/Machine/Program.lean ====
section
/-! DEFINITION. The assembler's lines and the pseudo-instructions as lists of host events (spec/30_encoding.md R79, R80). -/

namespace Sys2Proof.Machine

open Sys2Proof

/-- `WR <reg>, <value>` (R79). -/
def wr (r : Reg) (v : Word) : HostEvent := .write 64 (.offset r.offset) v

/-- `RD <reg>` (R79). -/
def rd (r : Reg) : HostEvent := .read 64 (.offset r.offset)

/-- A command line, NOP, START, ABSORB n, FINISH or ABORT: the write of its word to CMD (R79). -/
def issue (i : Instr) : HostEvent := wr .cmd (encode i)

/-- `BEGIN <seed>, <len>` (R80). -/
def beginSeq (seed len : Word) : List HostEvent := [wr .seed seed, wr .len len, issue .start]

/-- `PUSH <n>, <value>` (R80). -/
def pushSeq (n : Nat) (value : Word) : List HostEvent := [wr .data value, issue (.absorb n)]

/-- The PUSHes of the complete chunks of a message, in order (R80). -/
def pushChunks (b : List Byte) : List HostEvent :=
  (List.range (b.length / 8)).flatMap fun c => pushSeq 8 (chunkAt b c)

/-- The PUSH of the tail, "only when t = N mod 8 > 0" (R80). -/
def pushTail (b : List Byte) : List HostEvent :=
  if b.length % 8 = 0 then [] else pushSeq (b.length % 8) (le64 (tailOf b))

/-- `HASH <seed>, <bytes>` (R80): the whole operation, ending with the read of RESULT. -/
def hashSeq (seed : Word) (b : List Byte) : List HostEvent :=
  beginSeq seed (BitVec.ofNat 64 b.length) ++ pushChunks b ++ pushTail b ++ [issue .finish, rd .result]

/-- A piece of a message as the host delivers it: its bytes, and what it leaves in the lanes of DATA above them. -/
structure Piece where
  bytes : List Byte
  above : Word
  deriving DecidableEq, Repr

/-- "a piece of n message bytes is written as DATA = le64(p_0, ..., p_{n-1}) plus any value in the unused lanes" (R51). -/
def pieceData (p : Piece) : Word := le64 p.bytes ||| (p.above <<< (8 * p.bytes.length))

/-- `WR DATA, ...; ABSORB |p|` for one piece (R126). -/
def pushPiece (p : Piece) : List HostEvent := pushSeq p.bytes.length (pieceData p)

/-- A division into consecutive pieces of 1 to 8 bytes each (R126). -/
def piecesLegal (ps : List Piece) : Bool := ps.all fun p => !badByteCount p.bytes.length

/-- The message the pieces make, in order (R126). -/
def messageOf (ps : List Piece) : List Byte := ps.flatMap Piece.bytes

/-- The access sequence of R126 for a seed and a division into pieces. -/
def streamSeq (seed : Word) (ps : List Piece) : List HostEvent :=
  beginSeq seed (BitVec.ofNat 64 (messageOf ps).length) ++ ps.flatMap pushPiece ++ [issue .finish]

end Sys2Proof.Machine
end

