-- ==== Sys2Proof/Safety.lean ====
section
/-! DEFINITION. What the claims are stated in: the invariants of spec/10_state.md R35, the error a command reports
(spec/60_exceptions.md R162), runs, and the platform's premise HOST_ORDERS_DEVICE_ACCESSES (spec/20_memory.md R60). -/

namespace Sys2Proof.Machine

open Sys2Proof

/-- The invariants of R35, item by item. -/
structure EngineInv (s : State) : Prop where
  /-- R35 item 1. -/
  cnt_le : s.phase = .absorb → s.cnt ≤ s.latlen
  /-- R35 item 2, the count. -/
  bufcnt_eq : s.phase = .absorb → s.bufcnt.toNat = s.cnt.toNat % 8
  /-- R35 item 2, the lanes. -/
  buf_lanes : s.phase = .absorb → ∀ j < 8, s.bufcnt.toNat ≤ j → byteLane s.buf j = 0
  /-- R35 item 3. -/
  idle_zero : s.phase = .idle → s.h = 0 ∧ s.buf = 0 ∧ s.bufcnt = 0 ∧ s.cnt = 0 ∧ s.latlen = 0 ∧ s.res = 0
  /-- R35 item 4. -/
  done_result : s.phase = .done → s.buf = 0 ∧ s.bufcnt = 0 ∧ s.cnt = s.latlen ∧ s.h = s.res
  /-- R35 item 5. -/
  res_zero : s.phase ≠ .done → s.res = 0
  /-- R35 item 6. -/
  err_iff : s.err = false ↔ s.errcode = 0

/-- ERRCODE holds one of the codes of R161: "Codes 6 to 15 are never recorded". -/
abbrev errcodeLegal (s : State) : Prop := s.errcode ≤ 5

/-- The error the command word `w` reports in `s`, none if it succeeds: the first that applies in the order of R162, each
with its cause of R161. -/
def firstError (w : Word) (s : State) : Option CmdError :=
  match decode w with
  | .illegal _ => some .illegalCmd
  | .instr .nop => none
  | .instr .start => if s.phase = .absorb then some .sequence else none
  | .instr (.absorb n) =>
    if s.phase ≠ .absorb then some .sequence
    else if n = 0 ∨ 8 < n then some .badNbytes
    else if s.latlen.toNat < s.cnt.toNat + n then some .overrun
    else none
  | .instr .finish =>
    if s.phase ≠ .absorb then some .sequence
    else if s.cnt ≠ s.latlen then some .underrun
    else none
  | .instr .abort => none

/-- The oldest waiting event writes the word of command `i` to CMD. -/
def nextCommandIs (i : Instr) (s : State) : Prop :=
  ∃ target w, s.inbox.head? = some (.write 64 target w) ∧ windowOffset target = some 0x00 ∧ decode w = .instr i

/-- The oldest waiting event writes `v` to the register `r`. -/
def nextWriteIs (r : Reg) (v : Word) (s : State) : Prop :=
  ∃ target, s.inbox.head? = some (.write 64 target v) ∧ windowOffset target = some r.offset

/-- The oldest waiting event releases an asserted reset. -/
def nextReleasesReset (s : State) : Prop :=
  s.inbox.head? = some (.drive false) ∧ s.resetLine = true

/-- `k` steps of the machine, ending at the first stop. -/
def runSteps : Nat → State → Host.Outcome State Fault Refusal
  | 0, s => .next s
  | k + 1, s =>
    match step s with
    | .next t => runSteps k t
    | .fault r => .fault r
    | .refused r => .refused r

/-- HOST_ORDERS_DEVICE_ACCESSES: the accesses one host program issues reach the engine in program order (R60, D16). It is
a premise about the platform, the same for every claim about a host's program (notes/assumptions/6.md). -/
def HostOrdersDeviceAccesses (issued arrived : List HostEvent) : Prop := arrived = issued

end Sys2Proof.Machine
end

