-- ==== Sys2Proof/Certificates/Slice0/Obligations.lean ====
section
/-! DEFINITION. The statements for the provers. Each docstring names the rules of spec/ it formalises; a statement that rests
on a choice of the model names its log entry. -/

open Sys2Proof Sys2Proof.Machine

/-! ### Encoding -/

/-- Command words written out in 95_test_vectors.md section 3.1 decode as that table says. -/
def Obligations.SpecWordsDecodeAsListed : Prop :=
  decode 0x0000000000000000 = .instr .nop ∧ decode 0x0000000000000001 = .instr .start ∧
  decode 0x0000000000000102 = .instr (.absorb 1) ∧ decode 0x0000000000000802 = .instr (.absorb 8) ∧
  decode 0x0000000000000002 = .instr (.absorb 0) ∧ decode 0x0000000000000f02 = .instr (.absorb 15) ∧
  decode 0x0000000000000003 = .instr .finish ∧ decode 0x000000000000000f = .instr .abort ∧
  (decode 0x0000000000000004).toInstr = none ∧ (decode 0x000000000000000e).toInstr = none ∧
  (decode 0x0000000000000010).toInstr = none ∧ (decode 0x0000000000001000).toInstr = none ∧
  (decode 0x8000000000000001).toInstr = none ∧ (decode 0x0000000000000103).toInstr = none ∧
  (decode 0x0000000000000104).toInstr = none

/-- Decoding the word of any well-formed command gives the command back (R71 to R73, R78). -/
def Obligations.EncodeThenDecodeIsIdentity : Prop :=
  ∀ i : Instr, i.wf = true → decode (encode i) = .instr i

/-- A word that decodes to a command is that command's one word, so no bit of a command word is ignored (R70, R73, R78). -/
def Obligations.DecodeThenEncodeIsIdentity : Prop :=
  ∀ (w : Word) (i : Instr), decode w = .instr i → i.wf = true ∧ encode i = w

/-- The decoder selects by the masks and matches of R73, with the words it lists; a word that matches no row is
ILLEGAL_CMD. -/
def Obligations.DecoderFollowsMatchAndMask : Prop :=
  ∀ w : Word,
    (decode w = .instr .nop ↔ w &&& 0xFFFFFFFFFFFFFFFF = 0x0) ∧
    (decode w = .instr .start ↔ w &&& 0xFFFFFFFFFFFFFFFF = 0x1) ∧
    ((∃ n, decode w = .instr (.absorb n)) ↔ w &&& 0xFFFFFFFFFFFFF0FF = 0x2) ∧
    (∀ n, decode w = .instr (.absorb n) ↔ n < 16 ∧ w = 0x2 ||| (BitVec.ofNat 64 n <<< 8)) ∧
    (decode w = .instr .finish ↔ w &&& 0xFFFFFFFFFFFFFFFF = 0x3) ∧
    (decode w = .instr .abort ↔ w &&& 0xFFFFFFFFFFFFFFFF = 0xF) ∧
    (w ≠ 0x0 → w ≠ 0x1 → w &&& 0xFFFFFFFFFFFFF0FF ≠ 0x2 → w ≠ 0x3 → w ≠ 0xF →
      ∀ s, runCommand w s = .next (raiseCmdError .illegalCmd s))

/-- Reserved operations, reserved bits, and NBYTES outside ABSORB are each the ILLEGAL_CMD error, which records the error
and has no other effect (R74, R75, R76). -/
def Obligations.ReservedEncodingsOnlyRecordIllegalCmd : Prop :=
  ∀ (w : Word) (s : State),
    (4 ≤ (w.extractLsb' 0 4).toNat ∧ (w.extractLsb' 0 4).toNat ≤ 14 ∨
      w.extractLsb' 4 4 ≠ 0 ∨ w.extractLsb' 12 52 ≠ 0 ∨
      (w.extractLsb' 0 4 ≠ 2 ∧ w.extractLsb' 8 4 ≠ 0)) →
    runCommand w s = .next { s with err := true, errcode := if s.errcode = 0 then 1 else s.errcode }

/-! ### Byte order -/

/-- `le64` of at most eight bytes is their little-endian sum, byte `j` is its lane `j`, and the lanes above are 0 (R50,
R6, R8). -/
def Obligations.LittleEndianWordHoldsBytesInLanes : Prop :=
  ∀ bs : List Byte, bs.length ≤ 8 →
    (le64 bs).toNat = ((List.range bs.length).map fun i => (bs.getD i 0).toNat * 2 ^ (8 * i)).sum ∧
    ∀ j < 8, byteLane (le64 bs) j = bs.getD j 0

/-- A piece of 1 to 8 bytes written as `le64` plus any value above is what the lanes of DATA give back, and eight lanes
read little-endian are the whole word (R51, R52). -/
def Obligations.DataLanesGiveThePieceBack : Prop :=
  (∀ (p : List Byte) (above : Word), p.length ≤ 8 → lanes (le64 p ||| (above <<< (8 * p.length))) p.length = p) ∧
  ∀ d : Word, le64 (lanes d 8) = d

/-! ### The multiply-shift-mix unit -/

/-- R100 and R101: `mulm` is the product with M modulo 2^64, `xs` xors bit `i` with bit `i + 47`; with the rules' corner
cases and examples. -/
def Obligations.MulmAndXsFollowTheirRules : Prop :=
  (∀ x : Word, (mulm x).toNat = x.toNat * 0xc6a4a7935bd1e995 % 2 ^ 64) ∧
  (∀ (x : Word) (i : Nat), (xs x).getLsbD i = (x.getLsbD i ^^ x.getLsbD (i + 47))) ∧
  (∀ x : Word, x.toNat < 2 ^ 47 → xs x = x) ∧
  mulm 0 = 0 ∧ mulm 1 = 0xc6a4a7935bd1e995 ∧ mulm 0x8000000000000000 = 0x8000000000000000 ∧
  mulm 0xFFFFFFFFFFFFFFFF = 0x395b586ca42e166b ∧ mulm 0xc6a4a7935bd1e995 = 0x35a98f4d286a90b9 ∧
  xs 0 = 0 ∧ xs 0x0000800000000000 = 0x0000800000000001 ∧ xs 0xFFFFFFFFFFFFFFFF = 0xfffffffffffe0000 ∧
  xs 0x8000000000000000 = 0x8000000000010000 ∧ xs 0xc6a4a7935bd1e995 = 0xc6a4a7935bd064dc

/-- R102, R103, R105 and R106: the chunk mix, the chunk step, the finalization and the initial accumulator are the named
compositions of `mulm` and `xs`; with the rules' corner cases and examples. -/
def Obligations.MixFunctionsFollowTheirRules : Prop :=
  (∀ k : Word, mixk k = mulm (xs (mulm k))) ∧
  (∀ h k : Word, chunkStep h k = mulm (h ^^^ mixk k)) ∧
  (∀ h : Word, fin h = xs (mulm (xs h))) ∧
  (∀ seed n : Word, init seed n = seed ^^^ mulm n) ∧
  mixk 0 = 0 ∧ mixk 1 = 0x1ab11ea5a7b2f00c ∧ mixk 0xFFFFFFFFFFFFFFFF = 0x6ab7f64bb03ad9a1 ∧
  mixk 0x8000000000000000 = 0x27935bd1e9950000 ∧ mixk 0x0706050403020100 = 0xef8a8e72a9026d06 ∧
  chunkStep 0 0 = 0 ∧ (∀ h : Word, chunkStep h 0 = mulm h) ∧
  mixk 0x77202c6f6c6c6548 = 0xd8b7d730244d783a ∧ chunkStep 0x165c827ba9a8dc91 0x77202c6f6c6c6548 = 0x268efe54d2237a87 ∧
  fin 0 = 0 ∧ fin 1 = 0xc6a4a7935bd064dc ∧ fin 0xFFFFFFFFFFFFFFFF = 0xb0d9485c2cd761b2 ∧
  fin 0x5d7f780bca65c536 = 0x9cc9c33498a95efb ∧
  (∀ seed : Word, init seed 0 = seed) ∧ init 0 1 = 0xc6a4a7935bd1e995 ∧ init 0 8 = 0x35253c9ade8f4ca8 ∧
  init 0 0xFFFFFFFFFFFFFFFF = 0x395b586ca42e166b ∧ init 0 3 = 0x53edf6ba1375bcbf

/-- `mulm`, `xs`, `mixk` and `fin` are bijections; the inverse of `mulm` is multiplication by 0x5f7a0ea7e59b19bd, and `xs`
is its own inverse (R111). -/
def Obligations.MixFunctionsAreBijections : Prop :=
  Function.Bijective mulm ∧ Function.Bijective xs ∧ Function.Bijective mixk ∧ Function.Bijective fin ∧
  (∀ x : Word, mulm x * 0x5f7a0ea7e59b19bd = x) ∧ ∀ x : Word, xs (xs x) = x

/-- The tail fold of 0 to 7 bytes is one XOR with the tail read little-endian, then one multiply, and the order of its XORs
does not matter (R108). -/
def Obligations.TailFoldIsOneXorThenOneMultiply : Prop :=
  ∀ (h : Word) (u : List Byte), u.length ≤ 7 →
    tailStep h u = mulm (h ^^^ le64 u) ∧
    ∀ order : List Nat, order.Perm (List.range u.length) → order.foldl (tailXor u) h = h ^^^ le64 u

/-- For the empty message the hash is `fin(mulm(seed))`; with the two values R110 gives. -/
def Obligations.EmptyMessageHash : Prop :=
  (∀ seed : Word, init seed 0 = seed ∧ tailStep seed [] = mulm seed ∧ Machine.hash64 [] seed = fin (mulm seed)) ∧
  Machine.hash64 [] 0 = 0 ∧ Machine.hash64 [] 1 = 0x1ab11ea5a7b2c56e

/-- A message of complete chunks `cs` followed by a tail `u` hashes by folding the chunks in order from the initial
accumulator, then the tail step, then the finalization; with the two examples of R107. -/
def Obligations.HashFoldsChunksThenTail : Prop :=
  (∀ (cs : List (List Byte)) (u : List Byte) (seed : Word), (∀ c ∈ cs, c.length = 8) → u.length < 8 →
    Machine.hash64 (cs.flatten ++ u) seed =
      fin (tailStep
        (cs.foldl (fun h c => chunkStep h (le64 c)) (init seed (BitVec.ofNat 64 (8 * cs.length + u.length)))) u)) ∧
  Machine.hash64 [0x61, 0x62, 0x63] 0 = 0x9cc9c33498a95efb ∧
  Machine.hash64 [0x48, 0x65, 0x6c, 0x6c, 0x6f, 0x2c, 0x20, 0x77, 0x6f, 0x72, 0x6c, 0x64, 0x21] 0 = 0xa0fe1b7e284d2b19

/-- Known answers of 95_test_vectors.md section 2.5, among them a message of one whole chunk (C1). -/
def Obligations.KnownAnswers : Prop :=
  Machine.hash64 [0x61] 0 = 0x071717d2d36b6b11 ∧
  Machine.hash64 [0, 0, 0, 0, 0, 0, 0, 0] 0 = 0x1b1cfec35336de75 ∧
  Machine.hash64 [0x61, 0x62, 0x63] 1 = 0xb4b72636e1480c51

/-! ### The commands -/

/-- NOP, the word 0, leaves every element of the state in every phase; a word with its OP and any other bit set is
ILLEGAL_CMD (R121). -/
def Obligations.NopChangesNothing : Prop :=
  ∀ s : State, exec .nop s = .next s ∧ runCommand 0x0000000000000000 s = .next s ∧
    ∀ w : Word, w.extractLsb' 0 4 = 0 → w ≠ 0 → runCommand w s = .next (raiseCmdError .illegalCmd s)

/-- START begins a hash in IDLE and DONE and is a SEQUENCE error in ABSORB; nothing but the named elements changes (R122). -/
def Obligations.StartBeginsHashOrRecordsSequence : Prop :=
  ∀ s : State,
    (s.phase ≠ .absorb →
      exec .start s = .next { s with
        phase := .absorb, h := s.seedr ^^^ mulm s.lenr, latlen := s.lenr, cnt := 0, buf := 0, bufcnt := 0, res := 0 }) ∧
    (s.phase = .absorb →
      exec .start s = .next { s with err := true, errcode := if s.errcode = 0 then 2 else s.errcode })

/-- ABSORB n in ABSORB with a legal count that fits takes the `n` low lanes of DATA after the bytes in BUF, mixes the chunk
when its eighth byte arrives, and counts `n`; nothing else changes (R123; the premise on BUF is R35 item 2). -/
def Obligations.AbsorbAppendsLanesAndMixesFullChunk : Prop :=
  ∀ (n : Nat) (s : State), s.phase = .absorb → 1 ≤ n → n ≤ 8 → s.cnt.toNat + n ≤ s.latlen.toNat →
    (∀ j < 8, s.bufcnt.toNat ≤ j → byteLane s.buf j = 0) →
    exec (.absorb n) s = .next (
      if s.bufcnt.toNat + n < 8 then
        { s with
          buf := le64 (lanes s.buf s.bufcnt.toNat ++ lanes s.datar n)
          bufcnt := BitVec.ofNat 3 (s.bufcnt.toNat + n)
          cnt := s.cnt + BitVec.ofNat 64 n }
      else
        { s with
          h := chunkStep s.h (le64 ((lanes s.buf s.bufcnt.toNat ++ lanes s.datar n).take 8))
          buf := le64 ((lanes s.buf s.bufcnt.toNat ++ lanes s.datar n).drop 8)
          bufcnt := BitVec.ofNat 3 (s.bufcnt.toNat + n - 8)
          cnt := s.cnt + BitVec.ofNat 64 n })

/-- In every state of phase ABSORB, whatever BUF holds, an ABSORB with a legal count that fits completes, counts its bytes
without wrapping, and leaves all but H, BUF, BUFCNT and CNT (R123, R112). -/
def Obligations.AbsorbInBoundsCompletes : Prop :=
  ∀ (n : Nat) (s : State), s.phase = .absorb → 1 ≤ n → n ≤ 8 → s.cnt.toNat + n ≤ s.latlen.toNat →
    ∃ t : State, exec (.absorb n) s = .next t ∧
      t = { s with h := t.h, buf := t.buf, bufcnt := t.bufcnt, cnt := t.cnt } ∧
      t.cnt.toNat = s.cnt.toNat + n ∧ t.bufcnt.toNat = (s.bufcnt.toNat + n) % 8 ∧
      (s.bufcnt.toNat + n < 8 → t.h = s.h)

/-- An ABSORB that is refused records the first error of SEQUENCE, BAD_NBYTES, OVERRUN that applies and changes nothing
else (R123, R160 to R162). -/
def Obligations.AbsorbErrorsInPriorityOrder : Prop :=
  ∀ (n : Nat) (s : State),
    (s.phase ≠ .absorb → exec (.absorb n) s = .next { s with err := true, errcode := if s.errcode = 0 then 2 else s.errcode }) ∧
    (s.phase = .absorb → n = 0 ∨ 8 < n →
      exec (.absorb n) s = .next { s with err := true, errcode := if s.errcode = 0 then 3 else s.errcode }) ∧
    (s.phase = .absorb → 1 ≤ n → n ≤ 8 → s.latlen.toNat < s.cnt.toNat + n →
      exec (.absorb n) s = .next { s with err := true, errcode := if s.errcode = 0 then 4 else s.errcode })

/-- An ABSORB of 8 bytes at a chunk boundary mixes DATA itself as the chunk (R123). -/
def Obligations.AbsorbEightAtBoundaryMixesData : Prop :=
  ∀ s : State, s.phase = .absorb → s.bufcnt = 0 → s.buf = 0 → s.cnt.toNat + 8 ≤ s.latlen.toNat →
    exec (.absorb 8) s = .next { s with h := chunkStep s.h s.datar, cnt := s.cnt + 8 }

/-- The lanes of DATA at or above the byte count have no effect: two values of DATA that agree on the lanes below it give
the same next state but for DATA itself (R51). -/
def Obligations.AbsorbIgnoresUnusedLanes : Prop :=
  ∀ (n : Nat) (s : State) (d : Word), (∀ j < n, byteLane s.datar j = byteLane d j) →
    ∃ t : State, exec (.absorb n) s = .next t ∧ exec (.absorb n) { s with datar := d } = .next { t with datar := d }

/-- One ABSORB of `m + k` lanes is the same as an ABSORB of the low `m` followed by one of the next `k` (R57, R126). -/
def Obligations.AbsorbOfSumIsTwoAbsorbs : Prop :=
  ∀ (m k : Nat) (s : State), s.phase = .absorb → 1 ≤ m → 1 ≤ k → m + k ≤ 8 →
    s.cnt.toNat + m + k ≤ s.latlen.toNat →
    ∃ t u : State, exec (.absorb (m + k)) s = .next t ∧ exec (.absorb m) s = .next u ∧
      exec (.absorb k) { u with datar := s.datar >>> (8 * m) } = .next { t with datar := s.datar >>> (8 * m) }

/-- FINISH folds the tail, finalizes and publishes the result when every declared byte has been absorbed; else it is a
SEQUENCE or an UNDERRUN error; nothing but the named elements changes (R124). -/
def Obligations.FinishPublishesOrRecordsError : Prop :=
  ∀ s : State,
    (s.phase = .absorb → s.cnt = s.latlen →
      exec .finish s = .next { s with
        h := fin (mulm (s.h ^^^ s.buf)), res := fin (mulm (s.h ^^^ s.buf)), buf := 0, bufcnt := 0, phase := .done }) ∧
    (s.phase ≠ .absorb → exec .finish s = .next { s with err := true, errcode := if s.errcode = 0 then 2 else s.errcode }) ∧
    (s.phase = .absorb → s.cnt ≠ s.latlen →
      exec .finish s = .next { s with err := true, errcode := if s.errcode = 0 then 5 else s.errcode })

/-- ABORT, in every phase, sets every internal element to its reset value but SEEDR, LENR and DATAR (R125, R38). The reset
input and the model's own fields are left. -/
def Obligations.AbortResetsAllButStorage : Prop :=
  ∀ s : State, exec .abort s = .next { State.reset with
    seedr := s.seedr, lenr := s.lenr, datar := s.datar
    resetLine := s.resetLine, inbox := s.inbox, replies := s.replies }

/-! ### Errors and phases -/

/-- `raise CmdError(code)` sets ERR, records the code only when ERRCODE is 0, and changes nothing else (R160). -/
def Obligations.RaiseSetsErrAndFirstCode : Prop :=
  ∀ (e : CmdError) (s : State),
    raiseCmdError e s = { s with
      err := true
      errcode := if s.errcode = 0 then
          match e with
          | .illegalCmd => 1
          | .sequence => 2
          | .badNbytes => 3
          | .overrun => 4
          | .underrun => 5
        else s.errcode }

/-- A later error leaves ERRCODE at the first code (R163). -/
def Obligations.LaterErrorKeepsFirstCode : Prop :=
  ∀ (e f : CmdError) (s : State), raiseCmdError f (raiseCmdError e s) = raiseCmdError e s

/-- A command word reports exactly the first error that applies in the order of R162, and a command that succeeds leaves
ERR and ERRCODE, but for ABORT, which clears them (R160 to R163). -/
def Obligations.CommandReportsFirstApplicableError : Prop :=
  ∀ (w : Word) (s : State),
    (∀ e, firstError w s = some e → runCommand w s = .next (raiseCmdError e s)) ∧
    (firstError w s = none → ∃ t : State, runCommand w s = .next t ∧
      (decode w ≠ .instr .abort → t.err = s.err ∧ t.errcode = s.errcode) ∧
      (decode w = .instr .abort → t.err = false ∧ t.errcode = 0))

/-- R120: a write to CMD runs its word: Illegal words raise ILLEGAL_CMD, a command the phase does not accept raises
SEQUENCE, and only then is the command performed; it never waits. -/
def Obligations.DispatchChecksDecodeThenPhase : Prop :=
  ∀ (w : Word) (s : State),
    hostWrite .cmd w s =
      (match decode w with
      | .illegal _ => .next (raiseCmdError .illegalCmd s)
      | .instr i => if accepts s.phase i then exec i s else .next (raiseCmdError .sequence s)) ∧
    ∃ t : State, hostWrite .cmd w s = .next t

/-- The phase table of R127: which command each phase accepts, and the phase after it; a command that raises an error
leaves the phase. -/
def Obligations.PhaseTable : Prop :=
  (∀ p, accepts p .nop = true ∧ accepts p .abort = true) ∧
  (∀ p, (accepts p .start = true ↔ p = .idle ∨ p = .done) ∧ (accepts p .finish = true ↔ p = .absorb) ∧
    ∀ n, accepts p (.absorb n) = true ↔ p = .absorb) ∧
  ∀ (i : Instr) (s : State),
    (accepts s.phase i = false → exec i s = .next (raiseCmdError .sequence s)) ∧
    (accepts s.phase i = true → ∃ t : State, exec i s = .next t ∧
      match i with
      | .nop => t.phase = s.phase
      | .start => t.phase = .absorb
      | .absorb _ => t.phase = .absorb
      | .finish => t.phase = if s.cnt = s.latlen then .done else .absorb
      | .abort => t.phase = .idle) ∧
    ∀ (w : Word) (r : IllegalReason), decode w = .illegal r → runCommand w s = .next (raiseCmdError .illegalCmd s)

/-- Every command word completes or raises an error within its write, and no command touches SEED, LEN, DATA, the reset
input or the host's side (R120, R160, R38). -/
def Obligations.EveryCommandWordCompletes : Prop :=
  ∀ (w : Word) (s : State), ∃ t : State, runCommand w s = .next t ∧
    t.seedr = s.seedr ∧ t.lenr = s.lenr ∧ t.datar = s.datar ∧
    t.resetLine = s.resetLine ∧ t.inbox = s.inbox ∧ t.replies = s.replies

/-- While ERR is 1 commands run as if it were 0: the values of ERR and ERRCODE before a command change nothing but their
own values after it (R163). -/
def Obligations.CommandsRunAsIfNoErrorWereRecorded : Prop :=
  ∀ (w : Word) (s : State) (e : Bool) (c : BitVec 4), ∃ (t : State) (e' : Bool) (c' : BitVec 4),
    runCommand w s = .next t ∧ runCommand w { s with err := e, errcode := c } = .next { t with err := e', errcode := c' }

/-- A recorded error and its code are cleared by ABORT and by the release of reset, and stay through every other step
(R164). That the step which asserts reset is one of those other steps is the model's choice and no rule's: asserting
changes nothing else (log entry 3). -/
def Obligations.ErrorClearedOnlyByAbortOrReset : Prop :=
  ∀ s t : State, s.err = true → s.errcode ≠ 0 → step s = .next t →
    (nextCommandIs .abort s ∨ nextReleasesReset s → t.err = false ∧ t.errcode = 0) ∧
    (¬ (nextCommandIs .abort s ∨ nextReleasesReset s) → t.err = true ∧ t.errcode = s.errcode)

/-! ### What each element is written by -/

/-- COUNT advances by the byte count of a successful ABSORB, never past LATLEN and so never wrapping, and changes otherwise
only to 0 by START, ABORT and the release of reset (R21). That the step which asserts reset leaves COUNT is the model's
choice (log entry 3). -/
def Obligations.CountAdvancesOnlyByAbsorb : Prop :=
  ∀ s t : State, step s = .next t →
    t.cnt = s.cnt ∨
    (∃ n, nextCommandIs (.absorb n) s ∧ 1 ≤ n ∧ n ≤ 8 ∧ t.cnt.toNat = s.cnt.toNat + n ∧ t.cnt ≤ s.latlen) ∨
    ((nextCommandIs .start s ∨ nextCommandIs .abort s ∨ nextReleasesReset s) ∧ t.cnt = 0)

/-- LATLEN is written only by START, from LEN, and by ABORT and the release of reset, to 0 (R33). That the step which
asserts reset leaves LATLEN is the model's choice (log entry 3). -/
def Obligations.LatlenWrittenOnlyByStartAbortReset : Prop :=
  ∀ s t : State, step s = .next t →
    t.latlen = s.latlen ∨ (nextCommandIs .start s ∧ t.latlen = s.lenr) ∨
    ((nextCommandIs .abort s ∨ nextReleasesReset s) ∧ t.latlen = 0)

/-- RESULT is written by FINISH with the finalized accumulator and set to 0 by START, ABORT and the release of reset;
nothing else writes it (R27). That the step which asserts reset leaves RESULT is the model's choice (log entry 3). -/
def Obligations.ResultWrittenOnlyByFinishStartAbortReset : Prop :=
  ∀ s t : State, step s = .next t →
    t.res = s.res ∨ (nextCommandIs .finish s ∧ t.res = fin (mulm (s.h ^^^ s.buf)) ∧ t.h = t.res ∧ t.phase = .done) ∨
    ((nextCommandIs .start s ∨ nextCommandIs .abort s ∨ nextReleasesReset s) ∧ t.res = 0)

/-- SEED, LEN and DATA change only by a host write of the new value to that register, and by the release of reset to 0
(R24 to R26, R37). That the step which asserts reset leaves them is the model's choice (log entry 3). -/
def Obligations.StorageWrittenOnlyByHostAndReset : Prop :=
  ∀ s t : State, step s = .next t →
    (t.seedr = s.seedr ∨ nextWriteIs .seed t.seedr s ∨ (nextReleasesReset s ∧ t.seedr = 0)) ∧
    (t.lenr = s.lenr ∨ nextWriteIs .len t.lenr s ∨ (nextReleasesReset s ∧ t.lenr = 0)) ∧
    (t.datar = s.datar ∨ nextWriteIs .data t.datar s ∨ (nextReleasesReset s ∧ t.datar = 0))

/-- SEED and LEN are sampled at START and at no other time: their values have no effect on any other command word (R183). -/
def Obligations.SeedAndLenSampledOnlyAtStart : Prop :=
  ∀ (w : Word) (s : State) (sd ln : Word), decode w ≠ .instr .start →
    ∃ t : State, runCommand w s = .next t ∧
      runCommand w { s with seedr := sd, lenr := ln } = .next { t with seedr := sd, lenr := ln }

/-- DATA is sampled at ABSORB and at no other time: its value has no effect on any other command word (R184). -/
def Obligations.DataSampledOnlyAtAbsorb : Prop :=
  ∀ (w : Word) (s : State) (d : Word), (∀ n, decode w ≠ .instr (.absorb n)) →
    ∃ t : State, runCommand w s = .next t ∧ runCommand w { s with datar := d } = .next { t with datar := d }

/-! ### The host's accesses -/

/-- A 64-bit read at each offset of the window returns the register's value and changes nothing of the engine (R141, R59). -/
def Obligations.ReadsReturnTheRegisters : Prop :=
  ∀ (s : State) (rest : List HostEvent) (off : Nat), s.resetLine = false → s.inbox = .read 64 (.offset off) :: rest →
    (off = 0x00 → step s = .next { s with inbox := rest, replies := s.replies ++ [0] }) ∧
    (off = 0x08 → step s = .next { s with inbox := rest, replies := s.replies ++ [
      (match s.phase with | .idle => 0 | .absorb => 1 | .done => 2) ||| (s.bufcnt.setWidth 64 <<< 4)
        ||| ((if s.err then 1 else 0) <<< 8) ||| (s.errcode.setWidth 64 <<< 12)] }) ∧
    (off = 0x10 → step s = .next { s with inbox := rest, replies := s.replies ++ [s.seedr] }) ∧
    (off = 0x18 → step s = .next { s with inbox := rest, replies := s.replies ++ [s.lenr] }) ∧
    (off = 0x20 → step s = .next { s with inbox := rest, replies := s.replies ++ [s.datar] }) ∧
    (off = 0x28 → step s = .next { s with inbox := rest, replies := s.replies ++ [s.res] }) ∧
    (off = 0x30 → step s = .next { s with inbox := rest, replies := s.replies ++ [s.h] }) ∧
    (off = 0x38 → step s = .next { s with inbox := rest, replies := s.replies ++ [s.cnt] })

/-- A 64-bit write at each offset of the window runs a command, stores the value, or is ignored (R140). -/
def Obligations.WritesRunStoreOrAreIgnored : Prop :=
  ∀ (s : State) (rest : List HostEvent) (off : Nat) (v : Word), s.resetLine = false →
    s.inbox = .write 64 (.offset off) v :: rest →
    (off = 0x00 → step s = runCommand v { s with inbox := rest }) ∧
    (off = 0x10 → step s = .next { s with inbox := rest, seedr := v }) ∧
    (off = 0x18 → step s = .next { s with inbox := rest, lenr := v }) ∧
    (off = 0x20 → step s = .next { s with inbox := rest, datar := v }) ∧
    (off = 0x08 ∨ off = 0x28 ∨ off = 0x30 ∨ off = 0x38 → step s = .next { s with inbox := rest })

/-- Reading registers any number of times changes no state of the engine, and the host gets each register's value (R59). -/
def Obligations.ReadsHaveNoSideEffect : Prop :=
  ∀ (s : State) (rs : List Reg) (rest : List HostEvent), s.resetLine = false → s.inbox = rs.map rd ++ rest →
    runSteps rs.length s = .next { s with inbox := rest, replies := s.replies ++ rs.map fun r => readReg r s }

/-- Of the accesses at an offset of the window exactly those of 64 bits at a multiple of 8 are admitted: the engine takes a
step for them and for no other (R56, R142). That a refused access has one of two names, `accessWidth` or `misaligned`, and
the first where both apply, is the model's choice of names and order (log entry 5). -/
def Obligations.OnlyAlignedSixtyFourBitAccessesAdmitted : Prop :=
  ∀ (s : State) (rest : List HostEvent) (bits off : Nat) (v : Word) (e : HostEvent), s.resetLine = false → off < 64 →
    e = .read bits (.offset off) ∨ e = .write bits (.offset off) v → s.inbox = e :: rest →
    (bits = 64 ∧ off % 8 = 0 → ∃ t : State, step s = .next t) ∧
    (bits ≠ 64 → step s = .refused .accessWidth) ∧
    (bits = 64 ∧ off % 8 ≠ 0 → step s = .refused .misaligned)

/-- The window is the 64 bytes from ENGINE_BASE, a multiple of 64: an access at ENGINE_BASE + off is the access at offset
`off`, and the engine takes no step for an access at any other address (R53; U8 for the addresses outside). The model's
choices: addresses are natural numbers (log entry 4); the refusal outside has the name `outsideWindow` and comes before the
width is looked at (log entry 5). -/
def Obligations.WindowIsSixtyFourBytesAtBase : Prop :=
  Config.engineBase % 64 = 0 ∧
  ∀ (s : State) (rest : List HostEvent) (bits : Nat) (v : Word),
    (∀ off < 64,
      step { s with inbox := .read bits (.address (Config.engineBase + off)) :: rest } =
        step { s with inbox := .read bits (.offset off) :: rest } ∧
      step { s with inbox := .write bits (.address (Config.engineBase + off)) v :: rest } =
        step { s with inbox := .write bits (.offset off) v :: rest }) ∧
    ∀ a, a < Config.engineBase ∨ Config.engineBase + 64 ≤ a → s.resetLine = false →
      step { s with inbox := .read bits (.address a) :: rest } = .refused .outsideWindow ∧
      step { s with inbox := .write bits (.address a) v :: rest } = .refused .outsideWindow

/-- The fields of STATUS: PHASE in 1:0 and never 3, BUFCNT in 6:4, ERR in 8, ERRCODE in 15:12, all other bits 0 (R23). -/
def Obligations.StatusFieldsAndReservedBits : Prop :=
  ∀ s : State,
    (statusWord s).extractLsb' 0 2 = (match s.phase with | .idle => 0 | .absorb => 1 | .done => 2) ∧
    (statusWord s).extractLsb' 0 2 ≠ 3 ∧
    (statusWord s).extractLsb' 2 2 = 0 ∧ (statusWord s).extractLsb' 4 3 = s.bufcnt ∧ (statusWord s).extractLsb' 7 1 = 0 ∧
    (statusWord s).getLsbD 8 = s.err ∧ (statusWord s).extractLsb' 9 3 = 0 ∧ (statusWord s).extractLsb' 12 4 = s.errcode ∧
    (statusWord s).extractLsb' 16 48 = 0

/-! ### Reset, and how a step runs a command -/

/-- After reset every state element is 0 and every register reads 0 (R37). The first clause is the release of an asserted
reset from any state; `inbox` and `replies` are the model's own fields (log entries 1, 2, 3). -/
def Obligations.ResetLeavesEveryElementZero : Prop :=
  (∀ (s : State) (rest : List HostEvent), s.resetLine = true → s.inbox = .drive false :: rest →
    step s = .next {
      phase := .idle, h := 0, buf := 0, bufcnt := 0, latlen := 0, cnt := 0, res := 0, err := false, errcode := 0
      seedr := 0, lenr := 0, datar := 0, resetLine := false, inbox := rest, replies := s.replies }) ∧
  ∀ r : Reg, readReg r State.reset = 0

/-- While reset is asserted no host access is admitted (R180). That asserting the input changes nothing else, that
releasing an input that is not asserted changes nothing, and that the refusal has the name `heldInReset`, is the model's
choice (log entry 3). -/
def Obligations.NoAccessAdmittedInReset : Prop :=
  ∀ (s : State) (rest : List HostEvent),
    (s.inbox = .drive true :: rest → step s = .next { s with inbox := rest, resetLine := true }) ∧
    (s.resetLine = false → s.inbox = .drive false :: rest → step s = .next { s with inbox := rest }) ∧
    (s.resetLine = true → ∀ (bits : Nat) (target : Target) (v : Word),
      s.inbox = .read bits target :: rest ∨ s.inbox = .write bits target v :: rest → step s = .refused .heldInReset)

/-- When the oldest event is the write of a word to CMD that decodes to a command, the step is that command's meaning, on
the state with the event taken (R120). The list of waiting events is the model's own (log entry 1). -/
def Obligations.StepRunsTheDecodedCommand : Prop :=
  ∀ (s : State) (rest : List HostEvent) (w : Word) (i : Instr), s.resetLine = false →
    s.inbox = .write 64 (.offset 0x00) w :: rest → decode w = .instr i → step s = exec i { s with inbox := rest }

/-- When the oldest event is the write of an Illegal word to CMD, the step records ILLEGAL_CMD and nothing else (R78, R120). -/
def Obligations.StepRecordsIllegalWord : Prop :=
  ∀ (s : State) (rest : List HostEvent) (w : Word) (r : IllegalReason), s.resetLine = false →
    s.inbox = .write 64 (.offset 0x00) w :: rest → decode w = .illegal r →
    step s = .next { s with inbox := rest, err := true, errcode := if s.errcode = 0 then 1 else s.errcode }

/-- With no event waiting the engine waits, unchanged (R20, R181). That the wait is a step is the model's choice (log
entry 1). -/
def Obligations.EngineWaitsForEvents : Prop :=
  ∀ s : State, s.inbox = [] → step s = .next s

/-- A well-formed command placed where the step takes its next event is run by the very next step (R120; how a command is
placed is the model's choice, log entry 11). -/
def Obligations.PlacedCommandRunsNext : Prop :=
  ∀ (i : Instr) (s : State), i.wf = true →
    step (s.withFetchWord 64 (encode i).toNat) = exec i { s with resetLine := false }

/-! ### Invariants -/

/-- The invariants of R35 hold after reset. -/
def Obligations.ResetMeetsInvariants : Prop :=
  EngineInv State.reset

/-- Every step keeps the invariants of R35, from every state that has them. -/
def Obligations.StepKeepsInvariants : Prop :=
  ∀ s t : State, EngineInv s → step s = .next t → EngineInv t

/-- The invariants of R35 hold in every state a run from reset reaches, whatever events arrive. The list the events wait in
is the model's own (log entry 1). -/
def Obligations.InvariantsHoldOnEveryRunFromReset : Prop :=
  ∀ (events : List HostEvent) (k : Nat) (t : State), runSteps k { State.reset with inbox := events } = .next t → EngineInv t

/-- ERRCODE never holds a code above 5: true after reset and kept by every step (R161, R23). -/
def Obligations.ErrcodeStaysLegal : Prop :=
  errcodeLegal State.reset ∧ ∀ s t : State, errcodeLegal s → step s = .next t → errcodeLegal t

/-- In a state that meets the invariants, RESULT reads 0 in IDLE and ABSORB, and the accumulator in DONE (R185, R35). -/
def Obligations.ResultReadsZeroOutsideDone : Prop :=
  ∀ s : State, EngineInv s → readReg .result s = if s.phase = .done then readReg .hacc s else 0

/-! ### Streaming -/

/-- R126: from any state in IDLE or DONE, the accesses WR SEED, WR LEN, START, the pieces of 1 to 8 bytes with any value in
the unused lanes, and FINISH raise no error and end in DONE with RESULT the hash of the message, however it is divided.
That no error is raised is said by ERR and ERRCODE staying as they were, which shows it where ERR is 0 before; where ERR is
already 1, commands run as if it were 0 (R163, CommandsRunAsIfNoErrorWereRecorded). The premise that the accesses arrive in
order is R60's (log entry 6); the form of a piece's unused lanes is log entry 19's; N fits LEN (R5). -/
def Obligations.StreamedPiecesGiveTheHash : Prop :=
  ∀ (seed : Word) (ps : List Piece) (s : State) (arrived rest : List HostEvent),
    piecesLegal ps = true → (messageOf ps).length < 2 ^ 64 →
    HostOrdersDeviceAccesses (streamSeq seed ps) arrived →
    s.resetLine = false → s.phase ≠ .absorb → s.inbox = arrived ++ rest →
    ∃ t : State, runSteps arrived.length s = .next t ∧ t.phase = .done ∧ t.res = Machine.hash64 (messageOf ps) seed ∧
      t.err = s.err ∧ t.errcode = s.errcode ∧ t.inbox = rest ∧ t.replies = s.replies

/-- After START and any pieces that fit the declared length, BUF holds in lane `j` the message byte at stream position
8*floor(CNT/8) + j and 0 above, BUFCNT is CNT mod 8, and H is the fold of every complete chunk so far (R32, R126). The
premise that the accesses arrive in order is R60's (log entry 6); the form of a piece's unused lanes is log entry 19's. -/
def Obligations.PartialStreamState : Prop :=
  ∀ (seed len : Word) (ps : List Piece) (s : State) (arrived rest : List HostEvent),
    piecesLegal ps = true → (messageOf ps).length ≤ len.toNat →
    HostOrdersDeviceAccesses (beginSeq seed len ++ ps.flatMap pushPiece) arrived →
    s.resetLine = false → s.phase ≠ .absorb → s.inbox = arrived ++ rest →
    ∃ t : State, runSteps arrived.length s = .next t ∧ t.phase = .absorb ∧
      t.cnt.toNat = (messageOf ps).length ∧ t.bufcnt.toNat = t.cnt.toNat % 8 ∧
      (∀ j < 8, byteLane t.buf j = (messageOf ps).getD (8 * (t.cnt.toNat / 8) + j) 0) ∧
      t.h = chunkFold (messageOf ps) (init seed len) ∧ t.latlen = len ∧
      t.err = s.err ∧ t.errcode = s.errcode ∧ t.inbox = rest

/-- The pseudo-instruction `HASH seed, bytes` is the whole document operation: what its final read returns is
hash64(bytes, seed) (R80, R182). The premise that the accesses arrive in order is R60's (log entry 6). -/
def Obligations.HashPseudoInstructionReturnsTheHash : Prop :=
  ∀ (seed : Word) (b : List Byte) (s : State) (arrived rest : List HostEvent),
    b.length < 2 ^ 64 → HostOrdersDeviceAccesses (hashSeq seed b) arrived →
    s.resetLine = false → s.phase ≠ .absorb → s.inbox = arrived ++ rest →
    ∃ t : State, runSteps arrived.length s = .next t ∧ t.phase = .done ∧ t.replies = s.replies ++ [Machine.hash64 b seed] ∧
      t.err = s.err ∧ t.errcode = s.errcode ∧ t.inbox = rest
end

