-- ==== Sys2Proof/Laws/Lanes.lean ====
section
/-! SUPPORT. The algebra of byte lanes: a word is its eight lanes, and what or, shifts and widening do to a lane
(spec/00_scope.md R6, spec/20_memory.md R50, R51). -/

namespace Sys2Proof.Machine

open Sys2Proof

theorem getLsbD_byteLane (v : Word) (j k : Nat) : (byteLane v j).getLsbD k = (decide (k < 8) && v.getLsbD (8 * j + k)) := by
  simp [byteLane, BitVec.getLsbD_extractLsb']

/-- Two words with the same eight lanes are equal. -/
theorem eq_of_byteLane_eq {v w : Word} (h : ∀ j < 8, byteLane v j = byteLane w j) : v = w := by
  apply BitVec.eq_of_getLsbD_eq
  intro i hi
  have hb := congrArg (fun b => b.getLsbD (i % 8)) (h (i / 8) (by omega))
  simp only [getLsbD_byteLane, show i % 8 < 8 by omega, decide_true, Bool.true_and, Nat.div_add_mod] at hb
  exact hb

/-- Two bytes are equal when their bits are, the bits of lanes read from the word. -/
theorem byteLane_eq_of_bits {v : Word} {j : Nat} {b : Byte}
    (h : ∀ k < 8, v.getLsbD (8 * j + k) = b.getLsbD k) : byteLane v j = b := by
  apply BitVec.eq_of_getLsbD_eq
  intro k hk
  rw [getLsbD_byteLane, h k hk]
  simp only [hk, decide_true, Bool.true_and]

@[simp] theorem byteLane_zero (j : Nat) : byteLane 0 j = 0 :=
  byteLane_eq_of_bits fun k _ => by simp

@[simp] theorem byteLane_or (v w : Word) (j : Nat) : byteLane (v ||| w) j = byteLane v j ||| byteLane w j :=
  byteLane_eq_of_bits fun k hk => by
    rw [BitVec.getLsbD_or, BitVec.getLsbD_or, getLsbD_byteLane, getLsbD_byteLane]
    simp only [hk, decide_true, Bool.true_and]

/-- A left shift by `n` lanes moves lane `j` to lane `j + n`; zeros enter below. -/
theorem byteLane_shiftLeft (v : Word) (n j : Nat) (hj : j < 8) :
    byteLane (v <<< (8 * n)) j = if j < n then 0 else byteLane v (j - n) := by
  apply byteLane_eq_of_bits
  intro k hk
  rw [BitVec.getLsbD_shiftLeft]
  by_cases hn : j < n
  · simp [hn, show 8 * j + k < 8 * n by omega]
  · rw [if_neg hn, getLsbD_byteLane, show 8 * j + k - 8 * n = 8 * (j - n) + k by omega]
    simp [hk, show ¬ 8 * j + k < 8 * n by omega, show 8 * j + k < 64 by omega]

/-- A right shift by `n` lanes moves lane `j + n` to lane `j`. -/
theorem byteLane_ushiftRight (v : Word) (n j : Nat) : byteLane (v >>> (8 * n)) j = byteLane v (n + j) :=
  byteLane_eq_of_bits fun k hk => by
    rw [BitVec.getLsbD_ushiftRight, getLsbD_byteLane, show 8 * n + (8 * j + k) = 8 * (n + j) + k by omega]
    simp only [hk, decide_true, Bool.true_and]

/-- A byte widened to a word is its lane 0, and 0 above. -/
theorem byteLane_setWidth (b : Byte) (j : Nat) (hj : j < 8) :
    byteLane (b.setWidth 64) j = if j = 0 then b else 0 := by
  apply byteLane_eq_of_bits
  intro k hk
  rw [BitVec.getLsbD_setWidth]
  by_cases h0 : j = 0
  · subst h0
    simp only [Nat.mul_zero, Nat.zero_add, if_true, show k < 64 by omega, decide_true, Bool.true_and]
  · rw [if_neg h0, BitVec.getLsbD_of_ge b (8 * j + k) (by omega)]
    simp

@[simp] theorem lanes_length (d : Word) (n : Nat) : (lanes d n).length = n := by simp [lanes]

/-- The lanes of `m + k` bytes are the low `m`, then `k` lanes of the word shifted down by `m`. -/
theorem lanes_add (d : Word) (m k : Nat) : lanes d (m + k) = lanes d m ++ lanes (d >>> (8 * m)) k := by
  simp only [lanes, List.range_add, List.map_append, List.map_map]
  congr 1
  apply List.map_congr_left
  intro j _
  simp [byteLane_ushiftRight]

@[simp] theorem le64_nil : le64 [] = 0 := rfl

end Sys2Proof.Machine
end

