-- ==== Sys2Proof/Laws/Mix.lean ====
section
/-! SUPPORT. Small facts about the mix unit (spec/40_mix_datapath.md R4, R100). -/

namespace Sys2Proof.Machine

open Sys2Proof

/-- The multiplier as a number. Proofs about `mulm` rewrite with this: `simp` must not unfold the 64-bit literal. -/
theorem multiplier_toNat : multiplier.toNat = 0xc6a4a7935bd1e995 := by decide

/-- The multiplier and its inverse modulo 2^64 (R111). -/
theorem multiplier_mul_inverse : multiplier * 0x5f7a0ea7e59b19bd = 1 := by decide

end Sys2Proof.Machine
end

