-- ==== Sys2Proof/Laws/State.lean ====
section
/-! SUPPORT. One lemma per field per named update of the state, so that no proof unfolds a record update. -/

namespace Sys2Proof.Machine

open Sys2Proof

@[simp] theorem raiseCmdError_phase (e : CmdError) (s : State) : (raiseCmdError e s).phase = s.phase := rfl
@[simp] theorem raiseCmdError_h (e : CmdError) (s : State) : (raiseCmdError e s).h = s.h := rfl
@[simp] theorem raiseCmdError_buf (e : CmdError) (s : State) : (raiseCmdError e s).buf = s.buf := rfl
@[simp] theorem raiseCmdError_bufcnt (e : CmdError) (s : State) : (raiseCmdError e s).bufcnt = s.bufcnt := rfl
@[simp] theorem raiseCmdError_latlen (e : CmdError) (s : State) : (raiseCmdError e s).latlen = s.latlen := rfl
@[simp] theorem raiseCmdError_cnt (e : CmdError) (s : State) : (raiseCmdError e s).cnt = s.cnt := rfl
@[simp] theorem raiseCmdError_res (e : CmdError) (s : State) : (raiseCmdError e s).res = s.res := rfl
@[simp] theorem raiseCmdError_err (e : CmdError) (s : State) : (raiseCmdError e s).err = true := rfl
@[simp] theorem raiseCmdError_errcode (e : CmdError) (s : State) : (raiseCmdError e s).errcode = recordCode s.errcode e := rfl
@[simp] theorem raiseCmdError_seedr (e : CmdError) (s : State) : (raiseCmdError e s).seedr = s.seedr := rfl
@[simp] theorem raiseCmdError_lenr (e : CmdError) (s : State) : (raiseCmdError e s).lenr = s.lenr := rfl
@[simp] theorem raiseCmdError_datar (e : CmdError) (s : State) : (raiseCmdError e s).datar = s.datar := rfl
@[simp] theorem raiseCmdError_resetLine (e : CmdError) (s : State) : (raiseCmdError e s).resetLine = s.resetLine := rfl
@[simp] theorem raiseCmdError_inbox (e : CmdError) (s : State) : (raiseCmdError e s).inbox = s.inbox := rfl
@[simp] theorem raiseCmdError_replies (e : CmdError) (s : State) : (raiseCmdError e s).replies = s.replies := rfl

@[simp] theorem clearCmdError_phase (s : State) : (clearCmdError s).phase = s.phase := rfl
@[simp] theorem clearCmdError_h (s : State) : (clearCmdError s).h = s.h := rfl
@[simp] theorem clearCmdError_buf (s : State) : (clearCmdError s).buf = s.buf := rfl
@[simp] theorem clearCmdError_bufcnt (s : State) : (clearCmdError s).bufcnt = s.bufcnt := rfl
@[simp] theorem clearCmdError_latlen (s : State) : (clearCmdError s).latlen = s.latlen := rfl
@[simp] theorem clearCmdError_cnt (s : State) : (clearCmdError s).cnt = s.cnt := rfl
@[simp] theorem clearCmdError_res (s : State) : (clearCmdError s).res = s.res := rfl
@[simp] theorem clearCmdError_err (s : State) : (clearCmdError s).err = false := rfl
@[simp] theorem clearCmdError_errcode (s : State) : (clearCmdError s).errcode = 0 := rfl
@[simp] theorem clearCmdError_seedr (s : State) : (clearCmdError s).seedr = s.seedr := rfl
@[simp] theorem clearCmdError_lenr (s : State) : (clearCmdError s).lenr = s.lenr := rfl
@[simp] theorem clearCmdError_datar (s : State) : (clearCmdError s).datar = s.datar := rfl
@[simp] theorem clearCmdError_resetLine (s : State) : (clearCmdError s).resetLine = s.resetLine := rfl
@[simp] theorem clearCmdError_inbox (s : State) : (clearCmdError s).inbox = s.inbox := rfl
@[simp] theorem clearCmdError_replies (s : State) : (clearCmdError s).replies = s.replies := rfl

@[simp] theorem clearHash_phase (s : State) : (clearHash s).phase = .idle := rfl
@[simp] theorem clearHash_h (s : State) : (clearHash s).h = 0 := rfl
@[simp] theorem clearHash_buf (s : State) : (clearHash s).buf = 0 := rfl
@[simp] theorem clearHash_bufcnt (s : State) : (clearHash s).bufcnt = 0 := rfl
@[simp] theorem clearHash_latlen (s : State) : (clearHash s).latlen = 0 := rfl
@[simp] theorem clearHash_cnt (s : State) : (clearHash s).cnt = 0 := rfl
@[simp] theorem clearHash_res (s : State) : (clearHash s).res = 0 := rfl
@[simp] theorem clearHash_err (s : State) : (clearHash s).err = s.err := rfl
@[simp] theorem clearHash_errcode (s : State) : (clearHash s).errcode = s.errcode := rfl
@[simp] theorem clearHash_seedr (s : State) : (clearHash s).seedr = s.seedr := rfl
@[simp] theorem clearHash_lenr (s : State) : (clearHash s).lenr = s.lenr := rfl
@[simp] theorem clearHash_datar (s : State) : (clearHash s).datar = s.datar := rfl
@[simp] theorem clearHash_resetLine (s : State) : (clearHash s).resetLine = s.resetLine := rfl
@[simp] theorem clearHash_inbox (s : State) : (clearHash s).inbox = s.inbox := rfl
@[simp] theorem clearHash_replies (s : State) : (clearHash s).replies = s.replies := rfl

@[simp] theorem clearStorage_phase (s : State) : (clearStorage s).phase = s.phase := rfl
@[simp] theorem clearStorage_h (s : State) : (clearStorage s).h = s.h := rfl
@[simp] theorem clearStorage_buf (s : State) : (clearStorage s).buf = s.buf := rfl
@[simp] theorem clearStorage_bufcnt (s : State) : (clearStorage s).bufcnt = s.bufcnt := rfl
@[simp] theorem clearStorage_latlen (s : State) : (clearStorage s).latlen = s.latlen := rfl
@[simp] theorem clearStorage_cnt (s : State) : (clearStorage s).cnt = s.cnt := rfl
@[simp] theorem clearStorage_res (s : State) : (clearStorage s).res = s.res := rfl
@[simp] theorem clearStorage_err (s : State) : (clearStorage s).err = s.err := rfl
@[simp] theorem clearStorage_errcode (s : State) : (clearStorage s).errcode = s.errcode := rfl
@[simp] theorem clearStorage_seedr (s : State) : (clearStorage s).seedr = 0 := rfl
@[simp] theorem clearStorage_lenr (s : State) : (clearStorage s).lenr = 0 := rfl
@[simp] theorem clearStorage_datar (s : State) : (clearStorage s).datar = 0 := rfl
@[simp] theorem clearStorage_resetLine (s : State) : (clearStorage s).resetLine = s.resetLine := rfl
@[simp] theorem clearStorage_inbox (s : State) : (clearStorage s).inbox = s.inbox := rfl
@[simp] theorem clearStorage_replies (s : State) : (clearStorage s).replies = s.replies := rfl

@[simp] theorem resetEngine_phase (s : State) : (resetEngine s).phase = .idle := rfl
@[simp] theorem resetEngine_h (s : State) : (resetEngine s).h = 0 := rfl
@[simp] theorem resetEngine_buf (s : State) : (resetEngine s).buf = 0 := rfl
@[simp] theorem resetEngine_bufcnt (s : State) : (resetEngine s).bufcnt = 0 := rfl
@[simp] theorem resetEngine_latlen (s : State) : (resetEngine s).latlen = 0 := rfl
@[simp] theorem resetEngine_cnt (s : State) : (resetEngine s).cnt = 0 := rfl
@[simp] theorem resetEngine_res (s : State) : (resetEngine s).res = 0 := rfl
@[simp] theorem resetEngine_err (s : State) : (resetEngine s).err = false := rfl
@[simp] theorem resetEngine_errcode (s : State) : (resetEngine s).errcode = 0 := rfl
@[simp] theorem resetEngine_seedr (s : State) : (resetEngine s).seedr = 0 := rfl
@[simp] theorem resetEngine_lenr (s : State) : (resetEngine s).lenr = 0 := rfl
@[simp] theorem resetEngine_datar (s : State) : (resetEngine s).datar = 0 := rfl
@[simp] theorem resetEngine_resetLine (s : State) : (resetEngine s).resetLine = s.resetLine := rfl
@[simp] theorem resetEngine_inbox (s : State) : (resetEngine s).inbox = s.inbox := rfl
@[simp] theorem resetEngine_replies (s : State) : (resetEngine s).replies = s.replies := rfl

@[simp] theorem beginHash_phase (s : State) : (beginHash s).phase = .absorb := rfl
@[simp] theorem beginHash_h (s : State) : (beginHash s).h = init s.seedr s.lenr := rfl
@[simp] theorem beginHash_buf (s : State) : (beginHash s).buf = 0 := rfl
@[simp] theorem beginHash_bufcnt (s : State) : (beginHash s).bufcnt = 0 := rfl
@[simp] theorem beginHash_latlen (s : State) : (beginHash s).latlen = s.lenr := rfl
@[simp] theorem beginHash_cnt (s : State) : (beginHash s).cnt = 0 := rfl
@[simp] theorem beginHash_res (s : State) : (beginHash s).res = 0 := rfl
@[simp] theorem beginHash_err (s : State) : (beginHash s).err = s.err := rfl
@[simp] theorem beginHash_errcode (s : State) : (beginHash s).errcode = s.errcode := rfl
@[simp] theorem beginHash_seedr (s : State) : (beginHash s).seedr = s.seedr := rfl
@[simp] theorem beginHash_lenr (s : State) : (beginHash s).lenr = s.lenr := rfl
@[simp] theorem beginHash_datar (s : State) : (beginHash s).datar = s.datar := rfl
@[simp] theorem beginHash_resetLine (s : State) : (beginHash s).resetLine = s.resetLine := rfl
@[simp] theorem beginHash_inbox (s : State) : (beginHash s).inbox = s.inbox := rfl
@[simp] theorem beginHash_replies (s : State) : (beginHash s).replies = s.replies := rfl

@[simp] theorem publish_phase (r : Word) (s : State) : (publish r s).phase = .done := rfl
@[simp] theorem publish_h (r : Word) (s : State) : (publish r s).h = r := rfl
@[simp] theorem publish_buf (r : Word) (s : State) : (publish r s).buf = 0 := rfl
@[simp] theorem publish_bufcnt (r : Word) (s : State) : (publish r s).bufcnt = 0 := rfl
@[simp] theorem publish_latlen (r : Word) (s : State) : (publish r s).latlen = s.latlen := rfl
@[simp] theorem publish_cnt (r : Word) (s : State) : (publish r s).cnt = s.cnt := rfl
@[simp] theorem publish_res (r : Word) (s : State) : (publish r s).res = r := rfl
@[simp] theorem publish_err (r : Word) (s : State) : (publish r s).err = s.err := rfl
@[simp] theorem publish_errcode (r : Word) (s : State) : (publish r s).errcode = s.errcode := rfl
@[simp] theorem publish_seedr (r : Word) (s : State) : (publish r s).seedr = s.seedr := rfl
@[simp] theorem publish_lenr (r : Word) (s : State) : (publish r s).lenr = s.lenr := rfl
@[simp] theorem publish_datar (r : Word) (s : State) : (publish r s).datar = s.datar := rfl
@[simp] theorem publish_resetLine (r : Word) (s : State) : (publish r s).resetLine = s.resetLine := rfl
@[simp] theorem publish_inbox (r : Word) (s : State) : (publish r s).inbox = s.inbox := rfl
@[simp] theorem publish_replies (r : Word) (s : State) : (publish r s).replies = s.replies := rfl

@[simp] theorem storeAbsorbed_phase (a : ChunkAcc) (n : Nat) (s : State) : (storeAbsorbed a n s).phase = s.phase := rfl
@[simp] theorem storeAbsorbed_h (a : ChunkAcc) (n : Nat) (s : State) : (storeAbsorbed a n s).h = a.h := rfl
@[simp] theorem storeAbsorbed_buf (a : ChunkAcc) (n : Nat) (s : State) : (storeAbsorbed a n s).buf = a.buf := rfl
@[simp] theorem storeAbsorbed_bufcnt (a : ChunkAcc) (n : Nat) (s : State) : (storeAbsorbed a n s).bufcnt = BitVec.ofNat 3 a.cnt := rfl
@[simp] theorem storeAbsorbed_latlen (a : ChunkAcc) (n : Nat) (s : State) : (storeAbsorbed a n s).latlen = s.latlen := rfl
@[simp] theorem storeAbsorbed_cnt (a : ChunkAcc) (n : Nat) (s : State) : (storeAbsorbed a n s).cnt = s.cnt + BitVec.ofNat 64 n := rfl
@[simp] theorem storeAbsorbed_res (a : ChunkAcc) (n : Nat) (s : State) : (storeAbsorbed a n s).res = s.res := rfl
@[simp] theorem storeAbsorbed_err (a : ChunkAcc) (n : Nat) (s : State) : (storeAbsorbed a n s).err = s.err := rfl
@[simp] theorem storeAbsorbed_errcode (a : ChunkAcc) (n : Nat) (s : State) : (storeAbsorbed a n s).errcode = s.errcode := rfl
@[simp] theorem storeAbsorbed_seedr (a : ChunkAcc) (n : Nat) (s : State) : (storeAbsorbed a n s).seedr = s.seedr := rfl
@[simp] theorem storeAbsorbed_lenr (a : ChunkAcc) (n : Nat) (s : State) : (storeAbsorbed a n s).lenr = s.lenr := rfl
@[simp] theorem storeAbsorbed_datar (a : ChunkAcc) (n : Nat) (s : State) : (storeAbsorbed a n s).datar = s.datar := rfl
@[simp] theorem storeAbsorbed_resetLine (a : ChunkAcc) (n : Nat) (s : State) : (storeAbsorbed a n s).resetLine = s.resetLine := rfl
@[simp] theorem storeAbsorbed_inbox (a : ChunkAcc) (n : Nat) (s : State) : (storeAbsorbed a n s).inbox = s.inbox := rfl
@[simp] theorem storeAbsorbed_replies (a : ChunkAcc) (n : Nat) (s : State) : (storeAbsorbed a n s).replies = s.replies := rfl

@[simp] theorem reply_phase (v : Word) (s : State) : (reply v s).phase = s.phase := rfl
@[simp] theorem reply_h (v : Word) (s : State) : (reply v s).h = s.h := rfl
@[simp] theorem reply_buf (v : Word) (s : State) : (reply v s).buf = s.buf := rfl
@[simp] theorem reply_bufcnt (v : Word) (s : State) : (reply v s).bufcnt = s.bufcnt := rfl
@[simp] theorem reply_latlen (v : Word) (s : State) : (reply v s).latlen = s.latlen := rfl
@[simp] theorem reply_cnt (v : Word) (s : State) : (reply v s).cnt = s.cnt := rfl
@[simp] theorem reply_res (v : Word) (s : State) : (reply v s).res = s.res := rfl
@[simp] theorem reply_err (v : Word) (s : State) : (reply v s).err = s.err := rfl
@[simp] theorem reply_errcode (v : Word) (s : State) : (reply v s).errcode = s.errcode := rfl
@[simp] theorem reply_seedr (v : Word) (s : State) : (reply v s).seedr = s.seedr := rfl
@[simp] theorem reply_lenr (v : Word) (s : State) : (reply v s).lenr = s.lenr := rfl
@[simp] theorem reply_datar (v : Word) (s : State) : (reply v s).datar = s.datar := rfl
@[simp] theorem reply_resetLine (v : Word) (s : State) : (reply v s).resetLine = s.resetLine := rfl
@[simp] theorem reply_inbox (v : Word) (s : State) : (reply v s).inbox = s.inbox := rfl
@[simp] theorem reply_replies (v : Word) (s : State) : (reply v s).replies = s.replies ++ [v] := rfl

end Sys2Proof.Machine
end

