-- ==== Sys2Proof/Laws/Ops.lean ====
section
/-! SUPPORT. What each shared operation can do, said once: the registers an access names, the absorb loop, a command word,
one step. Proofs cite these and do not unfold the operations. -/

namespace Sys2Proof.Machine

open Sys2Proof

/-- Every register is at its own offset, and an offset names at most one register (R142). -/
theorem regAt_eq_some {off : Nat} {r : Reg} : regAt off = some r ↔ off = r.offset := by
  constructor
  · intro h
    simp only [regAt] at h
    repeat' split at h
    all_goals first | (cases h; simpa [Reg.offset]) | cases h
  · rintro rfl
    cases r <;> rfl

theorem windowOffset_lt {t : Target} {off : Nat} (h : windowOffset t = some off) : off < 64 := by
  cases t with
  | offset o =>
    by_cases ho : o < Config.windowBytes
    · rw [windowOffset, if_pos ho] at h
      cases h
      exact ho
    · rw [windowOffset, if_neg ho] at h
      cases h
  | address a =>
    by_cases ha : Config.engineBase ≤ a ∧ a < Config.engineBase + Config.windowBytes
    · rw [windowOffset, if_pos ha] at h
      cases h
      have hb : Config.windowBytes = 64 := rfl
      omega
    · rw [windowOffset, if_neg ha] at h
      cases h

/-- Which targets name an offset of the window, and which (R53). -/
theorem windowOffset_eq_some {t : Target} {off : Nat} :
    windowOffset t = some off ↔ off < 64 ∧ (t = .offset off ∨ t = .address (Config.engineBase + off)) := by
  have hb : Config.windowBytes = 64 := rfl
  constructor
  · intro h
    refine ⟨windowOffset_lt h, ?_⟩
    cases t with
    | offset o =>
      by_cases ho : o < Config.windowBytes
      · rw [windowOffset, if_pos ho] at h
        cases h
        exact .inl rfl
      · rw [windowOffset, if_neg ho] at h
        cases h
    | address a =>
      by_cases ha : Config.engineBase ≤ a ∧ a < Config.engineBase + Config.windowBytes
      · rw [windowOffset, if_pos ha] at h
        cases h
        exact .inr (by rw [Nat.add_sub_cancel' ha.1])
      · rw [windowOffset, if_neg ha] at h
        cases h
  · rintro ⟨ho, rfl | rfl⟩
    · rw [windowOffset, if_pos (by omega)]
    · rw [windowOffset, if_pos (by omega), Nat.add_sub_cancel_left]

/-- When an access is admitted, and to which register (R53, R56, R180). -/
theorem selectReg_eq_ok {bits : Nat} {t : Target} {s : State} {r : Reg} :
    selectReg bits t s = .ok r ↔ s.resetLine = false ∧ bits = 64 ∧ windowOffset t = some r.offset := by
  cases hl : s.resetLine
  · cases hw : windowOffset t with
    | none => simp [selectReg, hl, hw]
    | some off =>
      by_cases hb : bits = 64
      · cases hr : regAt off with
        | none =>
          simp only [selectReg, hl, hw, selectOffset, hb, hr]
          simp only [Bool.false_eq_true, if_false, ne_eq, not_true_eq_false, reduceCtorEq, Option.some.injEq, true_and,
            false_iff]
          intro h
          rw [regAt_eq_some.mpr h] at hr
          cases hr
        | some r' =>
          simp only [selectReg, hl, hw, selectOffset, hb, hr]
          simp only [Bool.false_eq_true, if_false, ne_eq, not_true_eq_false, Except.ok.injEq, Option.some.injEq, true_and]
          rw [← regAt_eq_some, hr]
          simp
      · simp [selectReg, hl, hw, selectOffset, hb]
  · simp [selectReg, hl]

/-- One turn of the absorb loop, a byte that does not fill the chunk (R123). -/
theorem absorbByte_of_lt {a : ChunkAcc} (b : Byte) (h : a.cnt < 7) :
    absorbByte a b = { h := a.h, buf := a.buf ||| (b.setWidth 64 <<< (8 * a.cnt)), cnt := a.cnt + 1 } := by
  simp [absorbByte, show a.cnt ≠ 7 by omega]

/-- One turn of the absorb loop, the byte that fills the chunk (R123). -/
theorem absorbByte_of_eq {a : ChunkAcc} (b : Byte) (h : a.cnt = 7) :
    absorbByte a b = { h := chunkStep a.h (a.buf ||| (b.setWidth 64 <<< 56)), buf := 0, cnt := 0 } := by
  simp [absorbByte, h]

/-- The absorb loop counts modulo 8, and never holds 8 bytes (R32). -/
theorem absorbBytes_cnt (a : ChunkAcc) (bs : List Byte) (h : a.cnt < 8) :
    (absorbBytes a bs).cnt = (a.cnt + bs.length) % 8 := by
  induction bs generalizing a with
  | nil => simp [absorbBytes, Nat.mod_eq_of_lt h]
  | cons b bs ih =>
    have hstep : absorbBytes a (b :: bs) = absorbBytes (absorbByte a b) bs := rfl
    rw [hstep]
    rcases Nat.lt_or_ge a.cnt 7 with h7 | h7
    · rw [absorbByte_of_lt b h7, ih _ (by simpa using by omega)]
      simp only [List.length_cons]
      omega
    · rw [absorbByte_of_eq b (by omega), ih _ (by simp)]
      simp only [List.length_cons]
      omega

theorem absorbBytes_append (a : ChunkAcc) (bs cs : List Byte) :
    absorbBytes a (bs ++ cs) = absorbBytes (absorbBytes a bs) cs := by
  simp [absorbBytes, List.foldl_append]

theorem badByteCount_eq_false {n : Nat} : badByteCount n = false ↔ 1 ≤ n ∧ n ≤ 8 := by
  simp [badByteCount]
  omega

theorem overruns_eq_false {n : Nat} {s : State} : overruns n s = false ↔ s.cnt.toNat + n ≤ s.latlen.toNat := by
  simp [overruns]
  omega

/-- A store writes SEED, LEN or DATA and nothing else (R140). -/
theorem storeReg_eq (r : Reg) (v : Word) (s : State) :
    storeReg r v s = { s with
      seedr := if r = .seed then v else s.seedr
      lenr := if r = .len then v else s.lenr
      datar := if r = .data then v else s.datar } := by
  cases r <;> rfl

/-- What driving the reset input does (R180): asserting it sets the level, releasing it resets every state element. -/
theorem driveReset_cases (a : Bool) (s : State) :
    (a = true ∧ driveReset a s = { s with resetLine := true }) ∨
    (a = false ∧ s.resetLine = true ∧
      driveReset a s = { State.reset with inbox := s.inbox, replies := s.replies }) ∨
    (a = false ∧ s.resetLine = false ∧ driveReset a s = s) := by
  cases a
  · cases h : s.resetLine
    · exact .inr (.inr ⟨rfl, rfl, by rw [driveReset, h]; rfl⟩)
    · exact .inr (.inl ⟨rfl, rfl, by rw [driveReset, h]; rfl⟩)
  · exact .inl ⟨rfl, rfl⟩

/-- What a command word can do (R120 to R125): raise an error, or have its command's effect. -/
theorem runCommand_cases (w : Word) (s : State) :
    (∃ e, runCommand w s = .next (raiseCmdError e s) ∧ decode w ≠ .instr .abort) ∨
    (decode w = .instr .nop ∧ runCommand w s = .next s) ∨
    (decode w = .instr .start ∧ s.phase ≠ .absorb ∧ runCommand w s = .next (beginHash s)) ∨
    (∃ n, decode w = .instr (.absorb n) ∧ s.phase = .absorb ∧ 1 ≤ n ∧ n ≤ 8 ∧ s.cnt.toNat + n ≤ s.latlen.toNat ∧
      runCommand w s = .next (storeAbsorbed (absorbBytes (chunkAcc s) (lanes s.datar n)) n s)) ∨
    (decode w = .instr .finish ∧ s.phase = .absorb ∧ s.cnt = s.latlen ∧
      runCommand w s = .next (publish (fin (mulm (s.h ^^^ s.buf))) s)) ∨
    (decode w = .instr .abort ∧ runCommand w s = .next (clearCmdError (clearHash s))) := by
  unfold runCommand
  cases hd : decode w with
  | illegal r => exact .inl ⟨.illegalCmd, by simp⟩
  | instr i =>
    cases i with
    | nop => exact .inr (.inl (by simp [exec, execNop]))
    | start =>
      by_cases hp : s.phase = .absorb
      · exact .inl ⟨.sequence, by simp [exec, execStart, hp]⟩
      · exact .inr (.inr (.inl (by simp [exec, execStart, hp])))
    | absorb n =>
      by_cases hp : s.phase = .absorb
      · cases hb : badByteCount n
        · cases ho : overruns n s
          · have hn := badByteCount_eq_false.mp hb
            exact .inr (.inr (.inr (.inl ⟨n, by
              simp [exec, execAbsorb, hp, hb, ho, hn, overruns_eq_false.mp ho]⟩)))
          · exact .inl ⟨.overrun, by simp [exec, execAbsorb, hp, hb, ho]⟩
        · exact .inl ⟨.badNbytes, by simp [exec, execAbsorb, hp, hb]⟩
      · exact .inl ⟨.sequence, by simp [exec, execAbsorb, hp]⟩
    | finish =>
      by_cases hp : s.phase = .absorb
      · by_cases hc : s.cnt = s.latlen
        · exact .inr (.inr (.inr (.inr (.inl (by simp [exec, execFinish, hp, hc])))))
        · exact .inl ⟨.underrun, by simp [exec, execFinish, hp, hc]⟩
      · exact .inl ⟨.sequence, by simp [exec, execFinish, hp]⟩
    | abort => exact .inr (.inr (.inr (.inr (.inr (by simp [exec, execAbort])))))

/-- What a step can do: wait, follow the reset input, answer a read, store a write, or run a command word (R20, R140, R141,
R180). -/
theorem step_cases {s t : State} (h : step s = .next t) :
    (s.inbox = [] ∧ t = s) ∨
    ∃ e rest, s.inbox = e :: rest ∧
      ((∃ a, e = .drive a ∧ t = driveReset a { s with inbox := rest }) ∨
       (∃ target r, e = .read 64 target ∧ s.resetLine = false ∧ windowOffset target = some r.offset ∧
          t = reply (readReg r { s with inbox := rest }) { s with inbox := rest }) ∨
       (∃ target r v, e = .write 64 target v ∧ s.resetLine = false ∧ windowOffset target = some r.offset ∧ r ≠ .cmd ∧
          t = storeReg r v { s with inbox := rest }) ∨
       (∃ target v, e = .write 64 target v ∧ s.resetLine = false ∧ windowOffset target = some 0x00 ∧
          runCommand v { s with inbox := rest } = .next t)) := by
  unfold step receive at h
  cases hi : s.inbox with
  | nil =>
    simp only [hi, Host.Outcome.next.injEq] at h
    exact .inl ⟨rfl, h.symm⟩
  | cons e rest =>
    simp only [hi] at h
    refine .inr ⟨e, rest, rfl, ?_⟩
    cases e with
    | drive a =>
      simp only [perform, Host.Outcome.next.injEq] at h
      exact .inl ⟨a, rfl, h.symm⟩
    | read bits target =>
      simp only [perform] at h
      split at h
      · rename_i r hr
        obtain ⟨hl, rfl, hw⟩ := selectReg_eq_ok.mp hr
        simp only [hostRead, Host.Outcome.next.injEq] at h
        exact .inr (.inl ⟨target, r, rfl, hl, hw, h.symm⟩)
      · cases h
    | write bits target v =>
      simp only [perform] at h
      split at h
      · rename_i r hr
        obtain ⟨hl, rfl, hw⟩ := selectReg_eq_ok.mp hr
        cases r
        case cmd => exact .inr (.inr (.inr ⟨target, v, rfl, hl, hw, h⟩))
        all_goals
          simp only [hostWrite, Host.Outcome.next.injEq] at h
          exact .inr (.inr (.inl ⟨target, _, v, rfl, hl, hw, by simp, h.symm⟩))
      · cases h

end Sys2Proof.Machine
end

