-- ==== Sys2Proof/Laws/PerInstr.lean ====
section
/-! SUPPORT. Statements about every command as syntax, one lemma per constructor. -/

namespace Sys2Proof.Laws.OpcodeRow

open Sys2Proof

/-- The word of a well-formed command is the one its row of the opcode map selects: under the row's mask it is the row's
match (R73). -/
def Statement (i : Instr) : Prop := i.wf = true → encode i &&& maskOf i = matchOf i

theorem nop : Statement .nop := fun _ => rfl

theorem start : Statement .start := fun _ => rfl

theorem absorb (n : Nat) : Statement (.absorb n) := by
  intro h
  have hn : n < 16 := by simpa [Instr.wf] using h
  have hall : ∀ m < 16, encode (.absorb m) &&& maskOf (.absorb m) = matchOf (.absorb m) := by decide
  exact hall n hn

theorem finish : Statement .finish := fun _ => rfl

theorem abort : Statement .abort := fun _ => rfl

end Sys2Proof.Laws.OpcodeRow
end

