-- ==== Sys2Proof/Laws/Run.lean ====
section
/-! SUPPORT. Runs of several steps: none, one more, and one run after another. -/

namespace Sys2Proof.Machine

open Sys2Proof

@[simp] theorem runSteps_zero (s : State) : runSteps 0 s = .next s := rfl

theorem runSteps_succ_of_next {k : Nat} {s t : State} (h : step s = .next t) : runSteps (k + 1) s = runSteps k t := by
  simp only [runSteps, h]

theorem runSteps_succ_of_refused {k : Nat} {s : State} {r : Refusal} (h : step s = .refused r) :
    runSteps (k + 1) s = .refused r := by
  simp only [runSteps, h]

/-- A run is the host's run of the machine. -/
theorem runSteps_eq_core_run (k : Nat) (s : State) : runSteps k s = Host.Core.run Sys2Proof.core k s := by
  induction k generalizing s with
  | zero => rfl
  | succ k ih =>
    have hc : Sys2Proof.core.step s = step s := rfl
    cases h : step s with
    | next t =>
      simp only [runSteps, Host.Core.run, hc, h]
      exact ih t
    | fault r => cases r
    | refused r =>
      simp only [runSteps, Host.Core.run, hc, h]
      rfl

/-- A run that completes goes on from where it ended. -/
theorem runSteps_add {j k : Nat} {s t : State} (h : runSteps j s = .next t) : runSteps (j + k) s = runSteps k t := by
  induction j generalizing s with
  | zero =>
    cases h
    rw [Nat.zero_add]
  | succ j ih =>
    rw [Nat.add_right_comm]
    cases hs : step s with
    | next u =>
      rw [runSteps_succ_of_next hs] at h ⊢
      exact ih h
    | fault r => cases r
    | refused r =>
      rw [runSteps_succ_of_refused hs] at h
      cases h

end Sys2Proof.Machine
end

