-- ==== Sys2Proof/Tests/Slice0.lean ====
section
/-! SUPPORT. Tests on small states, their expected values from spec/95_test_vectors.md (named by section), and a witness for
the hypotheses of every statement that has some. -/

namespace Sys2Proof.Tests

open Sys2Proof Sys2Proof.Machine

/-! ### Helpers -/

def nextState : Host.Outcome State Fault Refusal → Option State
  | .next t => some t
  | .fault _ => none
  | .refused _ => none

def refusal : Host.Outcome State Fault Refusal → Option Refusal
  | .next _ => none
  | .fault _ => none
  | .refused r => some r

/-- After `WR LEN, 3; START; WR DATA, 0x636261` (section 5, P1 line 4). -/
def streaming : State :=
  { State.reset with phase := .absorb, h := 0x53edf6ba1375bcbf, latlen := 3, lenr := 3, datar := 0x636261 }

/-- After `ABSORB 3` (section 5, P1 line 5). -/
def absorbed : State :=
  { streaming with buf := 0x636261, bufcnt := 3, cnt := 3 }

/-- After `FINISH` (section 5, P1 line 6). -/
def finished : State :=
  { absorbed with phase := .done, h := 0x9cc9c33498a95efb, res := 0x9cc9c33498a95efb, buf := 0, bufcnt := 0 }

/-- Before P2 line 7: "abcde" in BUF, "fghijklm" in DATA, 17 bytes declared. -/
def midChunk : State :=
  { State.reset with
    phase := .absorb, h := 0x31cc65ae915b4f0a, buf := 0x6564636261, bufcnt := 5, latlen := 17, cnt := 5
    datar := 0x6d6c6b6a69686766 }

/-- A state whose first error is already recorded. -/
def erred : State := { absorbed with err := true, errcode := 2 }

/-! ### WellFormed -/

theorem test_wf_refuses_nbytes_16 : (Instr.absorb 16).wf = false := by decide

theorem test_wf_accepts_nbytes_15 : (Instr.absorb 15).wf = true := by decide

/-! ### Decode: each command's word of 30_encoding.md R73, and the Illegal words of section 3.1 -/

theorem test_decode_nop : decode 0x0000000000000000 = .instr .nop := by decide

theorem test_decode_start : decode 0x0000000000000001 = .instr .start := by decide

theorem test_decode_absorb : decode 0x0000000000000802 = .instr (.absorb 8) := by decide

theorem test_decode_finish : decode 0x0000000000000003 = .instr .finish := by decide

theorem test_decode_abort : decode 0x000000000000000F = .instr .abort := by decide

theorem test_decode_absorb_0_is_no_nop : decode 0x0000000000000002 = .instr (.absorb 0) := by decide

theorem test_decode_names_reserved_op : decode 0x000000000000000e = .illegal .reservedOp := by decide

theorem test_decode_names_rsv0 : decode 0x0000000000000010 = .illegal .reservedBits := by decide

theorem test_decode_names_rsv1 : decode 0x8000000000000001 = .illegal .reservedBits := by decide

theorem test_decode_names_nbytes : decode 0x0000000000000103 = .illegal .nbytesOutsideAbsorb := by decide

theorem test_table_word_absorb : decodeTableWord 64 0x702 = some (.absorb 7) := by decide

theorem test_table_word_illegal : decodeTableWord 64 0x104 = none := by decide

theorem test_encode_absorb : encode (.absorb 5) = 0x502 := by decide

/-! ### The mix unit (sections 2.1 to 2.5) -/

theorem test_mixk : mixk 0x6867666564636261 = 0x5291c0b7ed8e047e := by decide

theorem test_fin : fin 0x123456789abcdef0 = 0xedfea7acae2be985 := by decide

theorem test_init : init 0x0123456789abcdef 17 = 0x31cc65ae915b4f0a := by decide

theorem test_chunkStep : chunkStep 0x165c827ba9a8dc91 0x77202c6f6c6c6548 = 0x268efe54d2237a87 := by decide

theorem test_tailStep_orld : tailStep 0x268efe54d2237a87 [0x6f, 0x72, 0x6c, 0x64, 0x21] = 0x8f8ca159c8835708 := by decide

theorem test_tailStep_empty_multiplies_once : tailStep 0xad4c7a69435485c8 [] = 0x04ba5af36e3ce568 := by decide

theorem test_hash64_txt17 :
    Machine.hash64 ((List.range 17).map fun i => BitVec.ofNat 8 (0x61 + i)) 0x0123456789abcdef = 0x7dc620e3619d2e43 := by
  decide

theorem test_hash64_seq16 : Machine.hash64 ((List.range 16).map (BitVec.ofNat 8)) 0 = 0xbd43cb6e502629b1 := by decide

/-! ### The commands (sections 3.2, 3.3 and 5) -/

theorem test_nop : (nextState (exec .nop erred)).map statusWord = some 0x2131 := by decide

theorem test_start : (nextState (exec .start { finished with lenr := 3 })).map (fun t => (statusWord t, t.h, t.res, t.cnt))
    = some (0x0001, 0x53edf6ba1375bcbf, 0, 0) := by decide

theorem test_start_in_absorb : (nextState (exec .start streaming)).map (fun t => (statusWord t, t.h))
    = some (0x2101, 0x53edf6ba1375bcbf) := by decide

theorem test_absorb_across_chunk : (nextState (exec (.absorb 8) midChunk)).map (fun t => (statusWord t, t.h, t.cnt, t.buf))
    = some (0x0051, 0xcaf706049f857e84, 13, 0x6d6c6b6a69) := by decide

theorem test_absorb_overrun : (nextState (exec (.absorb 4) streaming)).map (fun t => (statusWord t, t.cnt))
    = some (0x4101, 0) := by decide

theorem test_finish : (nextState (exec .finish absorbed)).map (fun t => (statusWord t, t.h, t.res))
    = some (0x0002, 0x9cc9c33498a95efb, 0x9cc9c33498a95efb) := by decide

theorem test_finish_underrun : (nextState (exec .finish { absorbed with cnt := 2, bufcnt := 2, buf := 0x6261 })).map statusWord
    = some 0x5121 := by decide

theorem test_abort : nextState (exec .abort erred) = some { State.reset with lenr := 3, datar := 0x636261 } := by decide

theorem test_bad_nbytes_before_overrun : (nextState (exec (.absorb 9) streaming)).map statusWord = some 0x3101 := by decide

theorem test_illegal_before_sequence : (nextState (runCommand 0x103 streaming)).map statusWord = some 0x1101 := by decide

/-! ### Steps -/

theorem test_step_placed_start_after_reset : (nextState (step (State.reset.withFetchWord 64 1))).map statusWord = some 1 := by
  decide

theorem test_step_read_status : (nextState (step { erred with inbox := [rd .status] })).map (fun t => t.replies)
    = some [0x2131] := by decide

theorem test_step_write_readonly_ignored : nextState (step { finished with inbox := [wr .result 7] }) = some finished := by
  decide

theorem test_step_narrow_refused : refusal (step { finished with inbox := [.write 32 (.offset 0x10) 1] }) = some .accessWidth := by
  decide

theorem test_step_reset_keeps_line_low : nextState (step { erred with resetLine := true, inbox := [.drive false] })
    = some State.reset := by decide

/-! ### Witnesses: the hypotheses of each statement can be met, one theorem a statement, one part a clause -/

theorem witness_EncodeThenDecodeIsIdentity : (Instr.absorb 15).wf = true ∧ (Instr.absorb 0).wf = true ∧ Instr.abort.wf = true := by
  decide

theorem witness_DecodeThenEncodeIsIdentity : decode 0xf02 = .instr (.absorb 15) ∧ decode 0x0 = .instr .nop := by decide

theorem witness_DecoderFollowsMatchAndMask : ∃ w : Word,
    w ≠ 0x0 ∧ w ≠ 0x1 ∧ w &&& 0xFFFFFFFFFFFFF0FF ≠ 0x2 ∧ w ≠ 0x3 ∧ w ≠ 0xF := ⟨0x4, by decide⟩

theorem witness_ReservedEncodingsOnlyRecordIllegalCmd :
    (4 ≤ ((0xe : Word).extractLsb' 0 4).toNat ∧ ((0xe : Word).extractLsb' 0 4).toNat ≤ 14) ∧
    (0x10 : Word).extractLsb' 4 4 ≠ 0 ∧ (0x8000000000000001 : Word).extractLsb' 12 52 ≠ 0 ∧
    ((0x103 : Word).extractLsb' 0 4 ≠ 2 ∧ (0x103 : Word).extractLsb' 8 4 ≠ 0) := by decide

theorem witness_LittleEndianWordHoldsBytesInLanes : ([1, 2, 3, 4, 5, 6, 7, 8] : List Byte).length ≤ 8 ∧ 7 < 8 := by decide

theorem witness_DataLanesGiveThePieceBack : ([1, 2, 3, 4, 5, 6, 7, 8] : List Byte).length ≤ 8 := by decide

theorem witness_MulmAndXsFollowTheirRules : ∃ x : Word, x.toNat < 2 ^ 47 ∧ x ≠ 0 := ⟨0x00007fffffffffff, by decide⟩

theorem witness_TailFoldIsOneXorThenOneMultiply : ([1, 2, 3, 4, 5, 6, 7] : List Byte).length ≤ 7 ∧
    [6, 5, 4, 3, 2, 1, 0].Perm (List.range ([1, 2, 3, 4, 5, 6, 7] : List Byte).length) := by decide

theorem witness_HashFoldsChunksThenTail : (∀ c ∈ ([[1, 2, 3, 4, 5, 6, 7, 8]] : List (List Byte)), c.length = 8) ∧
    ([9, 10, 11, 12, 13, 14, 15] : List Byte).length < 8 := by decide

theorem witness_NopChangesNothing : (0x100 : Word).extractLsb' 0 4 = 0 ∧ (0x100 : Word) ≠ 0 := by decide

theorem witness_StartBeginsHashOrRecordsSequence :
    State.reset.phase ≠ .absorb ∧ finished.phase ≠ .absorb ∧ streaming.phase = .absorb := by decide

theorem witness_AbsorbAppendsLanesAndMixesFullChunk :
    (streaming.phase = .absorb ∧ streaming.cnt.toNat + 3 ≤ streaming.latlen.toNat ∧
      (∀ j < 8, streaming.bufcnt.toNat ≤ j → byteLane streaming.buf j = 0) ∧ streaming.bufcnt.toNat + 3 < 8) ∧
    (midChunk.phase = .absorb ∧ midChunk.cnt.toNat + 8 ≤ midChunk.latlen.toNat ∧
      (∀ j < 8, midChunk.bufcnt.toNat ≤ j → byteLane midChunk.buf j = 0) ∧ ¬ midChunk.bufcnt.toNat + 8 < 8) := by decide

theorem witness_AbsorbInBoundsCompletes : streaming.phase = .absorb ∧ streaming.cnt.toNat + 3 ≤ streaming.latlen.toNat := by
  decide

theorem witness_AbsorbErrorsInPriorityOrder : finished.phase ≠ .absorb ∧ streaming.phase = .absorb ∧ (0 = 0 ∨ 8 < 0) ∧
    (9 = 0 ∨ 8 < 9) ∧ streaming.latlen.toNat < streaming.cnt.toNat + 4 := by decide

theorem witness_AbsorbEightAtBoundaryMixesData : ∃ s : State,
    s.phase = .absorb ∧ s.bufcnt = 0 ∧ s.buf = 0 ∧ s.cnt.toNat + 8 ≤ s.latlen.toNat :=
  ⟨{ streaming with latlen := 8 }, by decide⟩

theorem witness_AbsorbIgnoresUnusedLanes : ∀ j < 4, byteLane 0xdead000071706f6e j = byteLane 0x71706f6e j := by decide

theorem witness_AbsorbOfSumIsTwoAbsorbs : midChunk.phase = .absorb ∧ 7 + 1 ≤ 8 ∧
    midChunk.cnt.toNat + 7 + 1 ≤ midChunk.latlen.toNat := by decide

theorem witness_FinishPublishesOrRecordsError : (absorbed.phase = .absorb ∧ absorbed.cnt = absorbed.latlen) ∧
    finished.phase ≠ .absorb ∧ (streaming.phase = .absorb ∧ streaming.cnt ≠ streaming.latlen) := by decide

theorem witness_CommandReportsFirstApplicableError :
    firstError 0x104 streaming = some .illegalCmd ∧ firstError 0x002 State.reset = some .sequence ∧
    firstError 0x902 streaming = some .badNbytes ∧ firstError 0x402 streaming = some .overrun ∧
    firstError 0x003 streaming = some .underrun ∧ firstError 0x302 streaming = none ∧ decode 0x302 ≠ .instr .abort ∧
    firstError 0x00f streaming = none ∧ decode 0x00f = .instr .abort := by decide

theorem witness_PhaseTable : accepts streaming.phase .start = false ∧ accepts State.reset.phase .finish = false ∧
    accepts streaming.phase (.absorb 0) = true ∧ accepts finished.phase .start = true ∧
    decode 0x104 = .illegal .nbytesOutsideAbsorb := by decide

theorem witness_ErrorClearedOnlyByAbortOrReset : erred.err = true ∧ erred.errcode ≠ 0 ∧
    (step { erred with inbox := [issue .nop] } = .next erred ∧
      ¬ (nextCommandIs .abort { erred with inbox := [issue .nop] } ∨ nextReleasesReset { erred with inbox := [issue .nop] })) ∧
    (step { erred with inbox := [issue .abort] } = .next { State.reset with lenr := 3, datar := 0x636261 } ∧
      nextCommandIs .abort { erred with inbox := [issue .abort] }) ∧
    (step { erred with resetLine := true, inbox := [.drive false] } = .next State.reset ∧
      nextReleasesReset { erred with resetLine := true, inbox := [.drive false] }) := by
  refine ⟨by decide, by decide, ⟨rfl, ?_⟩, ⟨rfl, ?_⟩, rfl, rfl, rfl⟩
  · rintro (⟨target, w, h, -, hd⟩ | ⟨-, hl⟩)
    · cases h
      cases hd
    · cases hl
  · exact ⟨_, _, rfl, rfl, rfl⟩

/-- One part for each disjunct of the conclusion, with COUNT changed in the last two. -/
theorem witness_CountAdvancesOnlyByAbsorb :
    step { finished with inbox := [rd .count] } = .next { finished with replies := [3] } ∧
    (step { streaming with inbox := [issue (.absorb 3)] } = .next absorbed ∧
      nextCommandIs (.absorb 3) { streaming with inbox := [issue (.absorb 3)] }) ∧
    (step { finished with inbox := [issue .start] } = .next streaming ∧
      nextCommandIs .start { finished with inbox := [issue .start] }) ∧
    (step { finished with resetLine := true, inbox := [.drive false] } = .next State.reset ∧
      nextReleasesReset { finished with resetLine := true, inbox := [.drive false] }) :=
  ⟨rfl, ⟨rfl, _, _, rfl, rfl, rfl⟩, ⟨rfl, _, _, rfl, rfl, rfl⟩, rfl, rfl, rfl⟩

theorem witness_LatlenWrittenOnlyByStartAbortReset :
    step { State.reset with lenr := 3, datar := 0x636261, inbox := [issue .start] } = .next streaming ∧
    step { streaming with inbox := [issue .nop] } = .next streaming ∧
    step { streaming with inbox := [issue .abort] } = .next { State.reset with lenr := 3, datar := 0x636261 } ∧
    step { streaming with resetLine := true, inbox := [.drive false] } = .next State.reset := ⟨rfl, rfl, rfl, rfl⟩

theorem witness_ResultWrittenOnlyByFinishStartAbortReset :
    step { absorbed with inbox := [issue .finish] } = .next finished ∧
    step { finished with inbox := [wr .result 7] } = .next finished ∧
    step { finished with inbox := [issue .start] } = .next streaming ∧
    step { finished with inbox := [issue .abort] } = .next { State.reset with lenr := 3, datar := 0x636261 } ∧
    step { finished with resetLine := true, inbox := [.drive false] } = .next State.reset := ⟨rfl, rfl, rfl, rfl, rfl⟩

theorem witness_StorageWrittenOnlyByHostAndReset :
    step { finished with inbox := [wr .seed 5] } = .next { finished with seedr := 5 } ∧
    step { finished with inbox := [wr .len 5] } = .next { finished with lenr := 5 } ∧
    step { finished with inbox := [wr .data 5] } = .next { finished with datar := 5 } ∧
    step { finished with resetLine := true, inbox := [.drive false] } = .next State.reset := ⟨rfl, rfl, rfl, rfl⟩

theorem witness_SeedAndLenSampledOnlyAtStart : decode 0x302 ≠ .instr .start := by decide

theorem witness_DataSampledOnlyAtAbsorb : ∀ n, decode 0x003 ≠ .instr (.absorb n) := by
  intro n h
  cases h

theorem witness_ReadsReturnTheRegisters : ∀ r : Reg, ∃ s : State, s.resetLine = false ∧
    s.inbox = .read 64 (.offset r.offset) :: [] := fun r => ⟨{ finished with inbox := [rd r] }, rfl, rfl⟩

theorem witness_WritesRunStoreOrAreIgnored : ∀ r : Reg, ∃ s : State, s.resetLine = false ∧
    s.inbox = .write 64 (.offset r.offset) 1 :: [] := fun r => ⟨{ finished with inbox := [wr r 1] }, rfl, rfl⟩

theorem witness_ReadsHaveNoSideEffect : ∃ s : State, s.resetLine = false ∧
    s.inbox = [Reg.status, Reg.result].map rd ++ [issue .abort] :=
  ⟨{ finished with inbox := [rd .status, rd .result, issue .abort] }, rfl, rfl⟩

theorem witness_OnlyAlignedSixtyFourBitAccessesAdmitted : ∃ s : State, s.resetLine = false ∧ 56 < 64 ∧ 63 < 64 ∧
    (s.inbox = .read 64 (.offset 56) :: [] ∧ 56 % 8 = 0) ∧
    ({ s with inbox := [.write 128 (.offset 56) 0] } : State).inbox = .write 128 (.offset 56) 0 :: [] ∧
    (({ s with inbox := [.read 64 (.offset 63)] } : State).inbox = .read 64 (.offset 63) :: [] ∧ 63 % 8 ≠ 0) :=
  ⟨{ finished with inbox := [.read 64 (.offset 56)] }, by decide⟩

/-- The first address above the window; and the last below it, which exists unless the base, whose value no proof sees
(notes/assumptions/4.md), is 0. -/
theorem witness_WindowIsSixtyFourBytesAtBase : finished.resetLine = false ∧
    Config.engineBase + 64 ≤ Config.engineBase + 64 ∧
    (Config.engineBase ≠ 0 → Config.engineBase - 1 < Config.engineBase) :=
  ⟨rfl, Nat.le_refl _, fun h => Nat.sub_one_lt h⟩

theorem witness_ResetLeavesEveryElementZero : ∃ s : State, s.resetLine = true ∧ s.inbox = .drive false :: [] :=
  ⟨{ erred with resetLine := true, inbox := [.drive false] }, rfl, rfl⟩

theorem witness_NoAccessAdmittedInReset : ∃ s t u : State, s.inbox = .drive true :: [] ∧
    (t.resetLine = false ∧ t.inbox = .drive false :: []) ∧
    (u.resetLine = true ∧ u.inbox = .read 64 (.offset 0x08) :: []) :=
  ⟨{ erred with inbox := [.drive true] }, { erred with inbox := [.drive false] },
    { erred with resetLine := true, inbox := [rd .status] }, rfl, ⟨rfl, rfl⟩, rfl, rfl⟩

theorem witness_StepRunsTheDecodedCommand : ∃ s : State, s.resetLine = false ∧
    s.inbox = .write 64 (.offset 0x00) 0x302 :: [] ∧ decode 0x302 = .instr (.absorb 3) :=
  ⟨{ streaming with inbox := [wr .cmd 0x302] }, by decide⟩

theorem witness_StepRecordsIllegalWord : ∃ s : State, s.resetLine = false ∧
    s.inbox = .write 64 (.offset 0x00) 0x104 :: [] ∧ decode 0x104 = .illegal .nbytesOutsideAbsorb :=
  ⟨{ streaming with inbox := [wr .cmd 0x104] }, by decide⟩

theorem witness_EngineWaitsForEvents : absorbed.inbox = [] := by decide

theorem witness_PlacedCommandRunsNext : (Instr.absorb 15).wf = true ∧ Instr.start.wf = true := by decide

theorem witness_Inv_streaming : EngineInv absorbed := by constructor <;> decide

theorem witness_Inv_finished : EngineInv finished := by constructor <;> decide

theorem witness_StepKeepsInvariants : EngineInv { absorbed with inbox := [issue .finish] } ∧
    step { absorbed with inbox := [issue .finish] } = .next finished :=
  ⟨by constructor <;> decide, rfl⟩

theorem witness_InvariantsHoldOnEveryRunFromReset :
    runSteps 3 { State.reset with inbox := [wr .len 3, wr .data 0x636261, issue .start] } = .next streaming := rfl

theorem witness_ErrcodeStaysLegal : errcodeLegal { erred with errcode := 5, inbox := [issue .nop] } ∧
    step { erred with errcode := 5, inbox := [issue .nop] } = .next { erred with errcode := 5 } := ⟨by decide, rfl⟩

/-- "abcdefgh" and "ijk" in pieces of 5, 3 and 3 bytes, the middle one with other values in the unused lanes. -/
def somePieces : List Piece :=
  [⟨[0x61, 0x62, 0x63, 0x64, 0x65], 0⟩, ⟨[0x66, 0x67, 0x68], 0xdead⟩, ⟨[0x69, 0x6a, 0x6b], 0⟩]

theorem witness_StreamedPiecesGiveTheHash : ∃ s : State, piecesLegal somePieces = true ∧
    (messageOf somePieces).length < 2 ^ 64 ∧ HostOrdersDeviceAccesses (streamSeq 1 somePieces) (streamSeq 1 somePieces) ∧
    s.resetLine = false ∧ s.phase ≠ .absorb ∧ s.inbox = streamSeq 1 somePieces ++ [rd .result] :=
  ⟨{ finished with inbox := streamSeq 1 somePieces ++ [rd .result] }, by decide, by decide, rfl, rfl, by decide, rfl⟩

theorem witness_PartialStreamState : ∃ s : State, piecesLegal somePieces = true ∧
    (messageOf somePieces).length ≤ (11 : Word).toNat ∧
    HostOrdersDeviceAccesses (beginSeq 1 11 ++ somePieces.flatMap pushPiece) (beginSeq 1 11 ++ somePieces.flatMap pushPiece) ∧
    s.resetLine = false ∧ s.phase ≠ .absorb ∧ s.inbox = beginSeq 1 11 ++ somePieces.flatMap pushPiece ++ [] :=
  ⟨{ State.reset with inbox := beginSeq 1 11 ++ somePieces.flatMap pushPiece ++ [] }, by decide, by decide, rfl, rfl,
    by decide, rfl⟩

theorem witness_HashPseudoInstructionReturnsTheHash : ∃ s : State,
    ([0x61, 0x62, 0x63] : List Byte).length < 2 ^ 64 ∧
    HostOrdersDeviceAccesses (hashSeq 0 [0x61, 0x62, 0x63]) (hashSeq 0 [0x61, 0x62, 0x63]) ∧
    s.resetLine = false ∧ s.phase ≠ .absorb ∧ s.inbox = hashSeq 0 [0x61, 0x62, 0x63] ++ [] :=
  ⟨{ State.reset with inbox := hashSeq 0 [0x61, 0x62, 0x63] ++ [] }, by decide, rfl, rfl, by decide, rfl⟩

end Sys2Proof.Tests
end

/-! SUPPORT. What one step does to the elements the invariants of R35 speak of, and the statements that follow from it
(spec/10_state.md R20 to R38). -/

namespace Sys2Proof.Machine

open Sys2Proof

/-! ### What the host writes next -/

theorem nextCommandIs_of_inbox {s : State} {target : Target} {w : Word} {rest : List HostEvent} {i : Instr}
    (hi : s.inbox = .write 64 target w :: rest) (hw : windowOffset target = some 0x00) (hd : decode w = .instr i) :
    nextCommandIs i s :=
  ⟨target, w, by rw [hi, List.head?_cons], hw, hd⟩

theorem nextWriteIs_of_inbox {s : State} {target : Target} {v : Word} {rest : List HostEvent} {r : Reg}
    (hi : s.inbox = .write 64 target v :: rest) (hw : windowOffset target = some r.offset) : nextWriteIs r v s :=
  ⟨target, by rw [hi, List.head?_cons], hw⟩

theorem nextReleasesReset_of_inbox {s : State} {rest : List HostEvent} (hi : s.inbox = .drive false :: rest)
    (hl : s.resetLine = true) : nextReleasesReset s :=
  ⟨by rw [hi, List.head?_cons], hl⟩

/-! ### One step, as the invariants see it -/

/-- `t` has the hashing elements and the flags of `s`: the elements that R35 speaks of. -/
structure SameEngine (s t : State) : Prop where
  phase : t.phase = s.phase
  h : t.h = s.h
  buf : t.buf = s.buf
  bufcnt : t.bufcnt = s.bufcnt
  latlen : t.latlen = s.latlen
  cnt : t.cnt = s.cnt
  res : t.res = s.res
  err : t.err = s.err
  errcode : t.errcode = s.errcode

/-- What a step from `s` to `t` does to the hashing elements and the flags, with the event that does it. -/
inductive StepEffect (s t : State) : Prop where
  /-- A wait, a read, a store, NOP, or the reset input driven without a release. -/
  | kept (same : SameEngine s t)
  /-- A command error (R160). -/
  | raised (e : CmdError) (same : SameEngine (raiseCmdError e s) t)
  /-- START (R122). -/
  | began (cmd : nextCommandIs .start s) (same : SameEngine (beginHash s) t)
  /-- ABSORB (R123). -/
  | absorbed (n : Nat) (cmd : nextCommandIs (.absorb n) s) (phase : s.phase = .absorb) (pos : 1 ≤ n) (le : n ≤ 8)
      (fits : s.cnt.toNat + n ≤ s.latlen.toNat)
      (same : SameEngine (storeAbsorbed (absorbBytes (chunkAcc s) (lanes s.datar n)) n s) t)
  /-- FINISH (R124). -/
  | finished (cmd : nextCommandIs .finish s) (phase : s.phase = .absorb) (all : s.cnt = s.latlen)
      (same : SameEngine (publish (fin (mulm (s.h ^^^ s.buf))) s) t)
  /-- ABORT or the release of reset (R37, R38). -/
  | cleared (event : nextCommandIs .abort s ∨ nextReleasesReset s) (same : SameEngine State.reset t)

theorem stepEffect_of_driveReset {s : State} {a : Bool} {rest : List HostEvent} (hi : s.inbox = .drive a :: rest) :
    StepEffect s (driveReset a { s with inbox := rest }) := by
  rcases driveReset_cases a { s with inbox := rest } with ⟨-, ht⟩ | ⟨rfl, hl, ht⟩ | ⟨-, -, ht⟩
  · exact .kept (by rw [ht]; constructor <;> rfl)
  · exact .cleared (.inr (nextReleasesReset_of_inbox hi hl)) (by rw [ht]; constructor <;> rfl)
  · exact .kept (by rw [ht]; constructor <;> rfl)

theorem stepEffect_of_runCommand {s t : State} {target : Target} {w : Word} {rest : List HostEvent}
    (hi : s.inbox = .write 64 target w :: rest) (hw : windowOffset target = some 0x00)
    (h : runCommand w { s with inbox := rest } = .next t) : StepEffect s t := by
  rcases runCommand_cases w { s with inbox := rest } with
    ⟨e, hr, -⟩ | ⟨-, hr⟩ | ⟨hd, -, hr⟩ | ⟨n, hd, hp, hpos, hle, hfits, hr⟩ | ⟨hd, hp, hall, hr⟩ | ⟨hd, hr⟩
  all_goals
    rw [hr] at h
    cases h
  · exact .raised e (by constructor <;> rfl)
  · exact .kept (by constructor <;> rfl)
  · exact .began (nextCommandIs_of_inbox hi hw hd) (by constructor <;> rfl)
  · exact .absorbed n (nextCommandIs_of_inbox hi hw hd) hp hpos hle hfits (by constructor <;> rfl)
  · exact .finished (nextCommandIs_of_inbox hi hw hd) hp hall (by constructor <;> rfl)
  · exact .cleared (.inl (nextCommandIs_of_inbox hi hw hd)) (by constructor <;> rfl)

theorem stepEffect_of_step {s t : State} (h : step s = .next t) : StepEffect s t := by
  rcases step_cases h with ⟨-, rfl⟩ | ⟨e, rest, hi, ⟨a, rfl, rfl⟩ | ⟨target, r, -, -, -, rfl⟩ |
    ⟨target, r, v, -, -, -, -, rfl⟩ | ⟨target, v, rfl, -, hw, hr⟩⟩
  · exact .kept (by constructor <;> rfl)
  · exact stepEffect_of_driveReset hi
  · exact .kept (by constructor <;> rfl)
  · exact .kept (by rw [storeReg_eq]; constructor <;> rfl)
  · exact stepEffect_of_runCommand hi hw hr

/-! ### The invariants of R35, operation by operation -/

theorem recordCode_ne_zero (c : BitVec 4) (e : CmdError) : recordCode c e ≠ 0 := by
  unfold recordCode
  split
  · cases e <;> decide
  · assumption

theorem EngineInv.of_sameEngine {s t : State} (inv : EngineInv s) (same : SameEngine s t) : EngineInv t where
  cnt_le := by rw [same.phase, same.cnt, same.latlen]; exact inv.cnt_le
  bufcnt_eq := by rw [same.phase, same.bufcnt, same.cnt]; exact inv.bufcnt_eq
  buf_lanes := by rw [same.phase, same.bufcnt, same.buf]; exact inv.buf_lanes
  idle_zero := by
    rw [same.phase, same.h, same.buf, same.bufcnt, same.cnt, same.latlen, same.res]; exact inv.idle_zero
  done_result := by
    rw [same.phase, same.buf, same.bufcnt, same.cnt, same.latlen, same.h, same.res]; exact inv.done_result
  res_zero := by rw [same.phase, same.res]; exact inv.res_zero
  err_iff := by rw [same.err, same.errcode]; exact inv.err_iff

theorem engineInv_reset : EngineInv State.reset := by
  constructor <;> decide

theorem EngineInv.after_raiseCmdError {s : State} (inv : EngineInv s) (e : CmdError) : EngineInv (raiseCmdError e s) where
  cnt_le := inv.cnt_le
  bufcnt_eq := inv.bufcnt_eq
  buf_lanes := inv.buf_lanes
  idle_zero := inv.idle_zero
  done_result := inv.done_result
  res_zero := inv.res_zero
  err_iff := iff_of_false Bool.noConfusion (recordCode_ne_zero _ _)

theorem EngineInv.after_beginHash {s : State} (inv : EngineInv s) : EngineInv (beginHash s) where
  cnt_le := fun _ => BitVec.le_def.mpr (Nat.zero_le _)
  bufcnt_eq := by simp
  buf_lanes := fun _ j _ _ => byteLane_zero j
  idle_zero := by simp
  done_result := by simp
  res_zero := by simp
  err_iff := inv.err_iff

theorem EngineInv.after_publish {s : State} (inv : EngineInv s) (all : s.cnt = s.latlen) (r : Word) :
    EngineInv (publish r s) where
  cnt_le := by simp
  bufcnt_eq := by simp
  buf_lanes := by simp
  idle_zero := by simp
  done_result := by simp [all]
  res_zero := by simp
  err_iff := inv.err_iff

/-- The lanes of the chunk being assembled that hold no byte yet are 0 (R35 item 2). -/
def ChunkAcc.FreeLanesZero (a : ChunkAcc) : Prop := ∀ j < 8, a.cnt ≤ j → byteLane a.buf j = 0

theorem absorbByte_freeLanesZero {a : ChunkAcc} (hc : a.cnt < 8) (ha : a.FreeLanesZero) (b : Byte) :
    (absorbByte a b).FreeLanesZero := by
  intro j hj hle
  rcases Nat.lt_or_ge a.cnt 7 with h7 | h7
  · rw [absorbByte_of_lt b h7] at hle ⊢
    simp only at hle
    rw [byteLane_or, ha j hj (by omega), byteLane_shiftLeft _ _ _ hj, if_neg (by omega),
      byteLane_setWidth _ _ (by omega), if_neg (by omega)]
    rfl
  · rw [absorbByte_of_eq b (by omega)]
    exact byteLane_zero j

theorem absorbByte_cnt_lt {a : ChunkAcc} (hc : a.cnt < 8) (b : Byte) : (absorbByte a b).cnt < 8 := by
  have h := absorbBytes_cnt a [b] hc
  rw [show absorbBytes a [b] = absorbByte a b from rfl] at h
  omega

theorem absorbBytes_freeLanesZero {a : ChunkAcc} (hc : a.cnt < 8) (ha : a.FreeLanesZero) (bs : List Byte) :
    (absorbBytes a bs).FreeLanesZero := by
  induction bs generalizing a with
  | nil => exact ha
  | cons b bs ih => exact ih (absorbByte_cnt_lt hc b) (absorbByte_freeLanesZero hc ha b)

theorem chunkAcc_cnt_lt (s : State) : (chunkAcc s).cnt < 8 := s.bufcnt.isLt

/-- The bytes in BUF after the loop of an ABSORB of `bs` (R32, R123). -/
theorem storeAbsorbed_bufcnt_toNat (bs : List Byte) (s : State) :
    (storeAbsorbed (absorbBytes (chunkAcc s) bs) bs.length s).bufcnt.toNat = (s.bufcnt.toNat + bs.length) % 8 := by
  rw [storeAbsorbed_bufcnt, absorbBytes_cnt _ _ (chunkAcc_cnt_lt s), BitVec.toNat_ofNat]
  exact Nat.mod_mod _ _

/-- CNT does not wrap on an ABSORB that fits the latched length (R21, R123). -/
theorem storeAbsorbed_cnt_toNat {n : Nat} {s : State} (fits : s.cnt.toNat + n ≤ s.latlen.toNat) (a : ChunkAcc) :
    (storeAbsorbed a n s).cnt.toNat = s.cnt.toNat + n := by
  have hl := s.latlen.isLt
  rw [storeAbsorbed_cnt, BitVec.toNat_add, BitVec.toNat_ofNat, Nat.add_mod_mod]
  exact Nat.mod_eq_of_lt (by omega)

theorem EngineInv.after_storeAbsorbed {s : State} {bs : List Byte} (inv : EngineInv s) (hp : s.phase = .absorb)
    (fits : s.cnt.toNat + bs.length ≤ s.latlen.toNat) :
    EngineInv (storeAbsorbed (absorbBytes (chunkAcc s) bs) bs.length s) where
  cnt_le := fun _ => by rw [BitVec.le_def, storeAbsorbed_cnt_toNat fits]; exact fits
  bufcnt_eq := fun _ => by
    rw [storeAbsorbed_bufcnt_toNat, storeAbsorbed_cnt_toNat fits, inv.bufcnt_eq hp, Nat.mod_add_mod]
  buf_lanes := fun _ j hj hle => by
    rw [storeAbsorbed_bufcnt_toNat] at hle
    refine absorbBytes_freeLanesZero (chunkAcc_cnt_lt s) (inv.buf_lanes hp) bs j hj ?_
    rwa [absorbBytes_cnt _ _ (chunkAcc_cnt_lt s)]
  idle_zero := by simp [hp]
  done_result := by simp [hp]
  res_zero := fun _ => inv.res_zero (by simp [hp])
  err_iff := inv.err_iff

theorem EngineInv.of_step {s t : State} (inv : EngineInv s) (h : step s = .next t) : EngineInv t := by
  cases stepEffect_of_step h with
  | kept same => exact inv.of_sameEngine same
  | raised e same => exact (inv.after_raiseCmdError e).of_sameEngine same
  | began _ same => exact inv.after_beginHash.of_sameEngine same
  | absorbed n _ hp _ _ fits same =>
    have hn : (lanes s.datar n).length = n := lanes_length _ _
    have key := inv.after_storeAbsorbed (bs := lanes s.datar n) hp (by rwa [hn])
    rw [hn] at key
    exact key.of_sameEngine same
  | finished _ _ all same => exact (inv.after_publish all _).of_sameEngine same
  | cleared _ same => exact engineInv_reset.of_sameEngine same

theorem EngineInv.of_runSteps {k : Nat} {s t : State} (inv : EngineInv s) (h : runSteps k s = .next t) : EngineInv t := by
  induction k generalizing s with
  | zero =>
    cases h
    exact inv
  | succ k ih =>
    cases hs : step s with
    | next u =>
      rw [runSteps_succ_of_next hs] at h
      exact ih (inv.of_step hs) h
    | fault r => cases r
    | refused r =>
      rw [runSteps_succ_of_refused hs] at h
      cases h

/-- Settles O52: `EngineInv.of_step` keeps R35 effect by effect. -/
theorem stepKeepsInvariants : Obligations.StepKeepsInvariants :=
  fun _ _ inv h => inv.of_step h

/-- Settles O51. -/
theorem resetMeetsInvariants : Obligations.ResetMeetsInvariants :=
  engineInv_reset

/-- Settles O53: the events that wait are no element R35 speaks of, and the run keeps the invariants step by step. -/
theorem invariantsHoldOnEveryRunFromReset : Obligations.InvariantsHoldOnEveryRunFromReset := by
  intro events k t h
  have start : EngineInv { State.reset with inbox := events } :=
    engineInv_reset.of_sameEngine (by constructor <;> rfl)
  exact start.of_runSteps h

/-! ### What each element is written by -/

/-- Settles O33. -/
theorem countAdvancesOnlyByAbsorb : Obligations.CountAdvancesOnlyByAbsorb := by
  intro s t h
  cases stepEffect_of_step h with
  | kept same => exact .inl same.cnt
  | raised e same => exact .inl same.cnt
  | began cmd same => exact .inr (.inr ⟨.inl cmd, same.cnt⟩)
  | absorbed n cmd _ pos le fits same =>
    have hcnt : t.cnt.toNat = s.cnt.toNat + n := by rw [same.cnt, storeAbsorbed_cnt_toNat fits]
    exact .inr (.inl ⟨n, cmd, pos, le, hcnt, by rw [BitVec.le_def, hcnt]; exact fits⟩)
  | finished _ _ _ same => exact .inl same.cnt
  | cleared event same => exact .inr (.inr ⟨.inr event, same.cnt⟩)

/-- Settles O34. -/
theorem latlenWrittenOnlyByStartAbortReset : Obligations.LatlenWrittenOnlyByStartAbortReset := by
  intro s t h
  cases stepEffect_of_step h with
  | kept same => exact .inl same.latlen
  | raised e same => exact .inl same.latlen
  | began cmd same => exact .inr (.inl ⟨cmd, same.latlen⟩)
  | absorbed n _ _ _ _ _ same => exact .inl same.latlen
  | finished _ _ _ same => exact .inl same.latlen
  | cleared event same => exact .inr (.inr ⟨event, same.latlen⟩)

/-- Settles O35. -/
theorem resultWrittenOnlyByFinishStartAbortReset : Obligations.ResultWrittenOnlyByFinishStartAbortReset := by
  intro s t h
  cases stepEffect_of_step h with
  | kept same => exact .inl same.res
  | raised e same => exact .inl same.res
  | began cmd same => exact .inr (.inr ⟨.inl cmd, same.res⟩)
  | absorbed n _ _ _ _ _ same => exact .inl same.res
  | finished cmd _ _ same =>
    exact .inr (.inl ⟨cmd, same.res, same.h.trans same.res.symm, same.phase⟩)
  | cleared event same => exact .inr (.inr ⟨.inr event, same.res⟩)

/-- No command word writes SEED, LEN or DATA (R24 to R26, R38). -/
theorem runCommand_keeps_storage {w : Word} {s t : State} (h : runCommand w s = .next t) :
    t.seedr = s.seedr ∧ t.lenr = s.lenr ∧ t.datar = s.datar := by
  rcases runCommand_cases w s with
    ⟨e, hr, -⟩ | ⟨-, hr⟩ | ⟨-, -, hr⟩ | ⟨n, -, -, -, -, -, hr⟩ | ⟨-, -, -, hr⟩ | ⟨-, hr⟩
  all_goals
    rw [hr] at h
    cases h
    exact ⟨rfl, rfl, rfl⟩

/-- Settles O36: only the store of the oldest write, and the release of reset, touch the three registers. -/
theorem storageWrittenOnlyByHostAndReset : Obligations.StorageWrittenOnlyByHostAndReset := by
  intro s t h
  rcases step_cases h with ⟨-, rfl⟩ | ⟨e, rest, hi, ⟨a, rfl, rfl⟩ | ⟨target, r, -, -, -, rfl⟩ |
    ⟨target, r, v, rfl, -, hw, -, rfl⟩ | ⟨target, v, -, -, -, hr⟩⟩
  · exact ⟨.inl rfl, .inl rfl, .inl rfl⟩
  · rcases driveReset_cases a { s with inbox := rest } with ⟨-, ht⟩ | ⟨rfl, hl, ht⟩ | ⟨-, -, ht⟩
    · rw [ht]
      exact ⟨.inl rfl, .inl rfl, .inl rfl⟩
    · have release := nextReleasesReset_of_inbox hi hl
      rw [ht]
      exact ⟨.inr (.inr ⟨release, rfl⟩), .inr (.inr ⟨release, rfl⟩), .inr (.inr ⟨release, rfl⟩)⟩
    · rw [ht]
      exact ⟨.inl rfl, .inl rfl, .inl rfl⟩
  · exact ⟨.inl rfl, .inl rfl, .inl rfl⟩
  · have written := nextWriteIs_of_inbox hi hw
    cases r with
    | seed => exact ⟨.inr (.inl written), .inl rfl, .inl rfl⟩
    | len => exact ⟨.inl rfl, .inr (.inl written), .inl rfl⟩
    | data => exact ⟨.inl rfl, .inl rfl, .inr (.inl written)⟩
    | cmd | status | result | hacc | count => exact ⟨.inl rfl, .inl rfl, .inl rfl⟩
  · obtain ⟨hseed, hlen, hdata⟩ := runCommand_keeps_storage hr
    exact ⟨.inl hseed, .inl hlen, .inl hdata⟩

/-! ### Reset, ABORT and the wait -/

/-- Settles O24. -/
theorem abortResetsAllButStorage : Obligations.AbortResetsAllButStorage :=
  fun _ => rfl

theorem step_of_inbox_nil {s : State} (hi : s.inbox = []) : step s = .next s := by
  rw [step, receive, hi]

theorem step_of_inbox_drive {s : State} {a : Bool} {rest : List HostEvent} (hi : s.inbox = .drive a :: rest) :
    step s = .next (driveReset a { s with inbox := rest }) := by
  rw [step, receive, hi]
  rfl

theorem driveReset_release {s : State} (hl : s.resetLine = true) :
    driveReset false s = { State.reset with inbox := s.inbox, replies := s.replies } := by
  rcases driveReset_cases false s with ⟨h, -⟩ | ⟨-, -, ht⟩ | ⟨-, h, -⟩
  · cases h
  · exact ht
  · rw [hl] at h
    cases h

/-- Settles O45: the release resets every element, and each register reads an element that is 0. -/
theorem resetLeavesEveryElementZero : Obligations.ResetLeavesEveryElementZero := by
  refine ⟨fun s rest hl hi => ?_, fun r => ?_⟩
  · rw [step_of_inbox_drive hi, driveReset_release (s := { s with inbox := rest }) hl]
    rfl
  · cases r <;> decide

/-- Settles O49. -/
theorem engineWaitsForEvents : Obligations.EngineWaitsForEvents :=
  fun _ hi => step_of_inbox_nil hi

/-! ### STATUS -/

theorem phaseBits_ne_three (p : Phase) : phaseBits p ≠ 3 := by
  cases p <;> decide

/-- STATUS bit by bit: which element each bit shows (R23). -/
theorem statusWord_getLsbD (s : State) (i : Nat) :
    (statusWord s).getLsbD i =
      if i < 2 then (phaseBits s.phase).getLsbD i
      else if 4 ≤ i ∧ i < 7 then s.bufcnt.getLsbD (i - 4)
      else if i = 8 then s.err
      else if 12 ≤ i ∧ i < 16 then s.errcode.getLsbD (i - 12)
      else false := by
  -- above its width an element has only zeros, so at most one field has a say at each bit
  have hp : ∀ j, ¬ j < 2 → (phaseBits s.phase).getLsbD j = false := fun j hj => BitVec.getLsbD_of_ge _ j (by omega)
  have hb : ∀ j, ¬ j < 3 → s.bufcnt.getLsbD j = false := fun j hj => BitVec.getLsbD_of_ge _ j (by omega)
  have he : ∀ j, ¬ j < 4 → s.errcode.getLsbD j = false := fun j hj => BitVec.getLsbD_of_ge _ j (by omega)
  simp only [statusWord, BitVec.getLsbD_or, BitVec.getLsbD_shiftLeft, BitVec.getLsbD_setWidth, BitVec.getLsbD_ofBool]
  grind

/-- The reserved bits of STATUS read 0 (R23). -/
theorem statusWord_getLsbD_reserved (s : State) {i : Nat}
    (hi : 2 ≤ i ∧ i < 4 ∨ i = 7 ∨ 9 ≤ i ∧ i < 12 ∨ 16 ≤ i) : (statusWord s).getLsbD i = false := by
  rw [statusWord_getLsbD, if_neg (by omega), if_neg (by omega), if_neg (by omega), if_neg (by omega)]

/-- `n` bits of STATUS from bit `lo` are 0 when each is reserved. -/
theorem extractLsb'_statusWord_reserved (s : State) (lo n : Nat)
    (hi : ∀ i < n, 2 ≤ lo + i ∧ lo + i < 4 ∨ lo + i = 7 ∨ 9 ≤ lo + i ∧ lo + i < 12 ∨ 16 ≤ lo + i) :
    (statusWord s).extractLsb' lo n = 0 := by
  apply BitVec.eq_of_getLsbD_eq
  intro i h
  rw [BitVec.getLsbD_extractLsb', statusWord_getLsbD_reserved s (hi i h)]
  simp

theorem statusWord_phase (s : State) : (statusWord s).extractLsb' 0 2 = phaseBits s.phase := by
  apply BitVec.eq_of_getLsbD_eq
  intro i hi
  simp [hi, statusWord_getLsbD]

theorem statusWord_bufcnt (s : State) : (statusWord s).extractLsb' 4 3 = s.bufcnt := by
  apply BitVec.eq_of_getLsbD_eq
  intro i hi
  simp [hi, statusWord_getLsbD, show 4 + i < 7 by omega, show ¬ 4 + i < 2 by omega]

theorem statusWord_err (s : State) : (statusWord s).getLsbD 8 = s.err :=
  statusWord_getLsbD s 8

theorem statusWord_errcode (s : State) : (statusWord s).extractLsb' 12 4 = s.errcode := by
  apply BitVec.eq_of_getLsbD_eq
  intro i hi
  simp [hi, statusWord_getLsbD, show 12 + i < 16 by omega, show ¬ 12 + i < 2 by omega, show ¬ 12 + i < 7 by omega,
    show 12 + i ≠ 8 by omega]

/-- Settles O44, field by field. -/
theorem statusFieldsAndReservedBits : Obligations.StatusFieldsAndReservedBits := by
  intro s
  refine ⟨?phase, ?phaseNotThree, extractLsb'_statusWord_reserved s 2 2 (by omega), statusWord_bufcnt s,
    extractLsb'_statusWord_reserved s 7 1 (by omega), statusWord_err s,
    extractLsb'_statusWord_reserved s 9 3 (by omega), statusWord_errcode s,
    extractLsb'_statusWord_reserved s 16 48 (by omega)⟩
  case phase =>
    rw [statusWord_phase]
    cases s.phase <;> rfl
  case phaseNotThree =>
    rw [statusWord_phase]
    exact phaseBits_ne_three s.phase

end Sys2Proof.Machine

/-! SUPPORT. A message as it streams in: the bytes of a little-endian word, a piece in the lanes of DATA, the loop of
ABSORB over consecutive bytes (spec/20_memory.md R50 to R52; spec/10_state.md R32; spec/41_stream_commands.md R123). -/

namespace Sys2Proof.Machine

open Sys2Proof

/-! ### Little-endian words and pieces -/

theorem byteLane_and (v w : Word) (j : Nat) : byteLane (v &&& w) j = byteLane v j &&& byteLane w j :=
  byteLane_eq_of_bits fun k hk => by
    rw [BitVec.getLsbD_and, BitVec.getLsbD_and, getLsbD_byteLane, getLsbD_byteLane]
    simp only [hk, decide_true, Bool.true_and]

/-- A byte placed at lane `i` of an otherwise zero word. -/
theorem byteLane_setWidth_shiftLeft (b : Byte) (i : Nat) {j : Nat} (hj : j < 8) :
    byteLane (b.setWidth 64 <<< (8 * i)) j = if j = i then b else 0 := by
  rw [byteLane_shiftLeft _ _ _ hj]
  rcases Nat.lt_trichotomy j i with h | rfl | h
  · rw [if_pos h, if_neg (by omega)]
  · rw [if_neg (by omega), if_pos rfl, byteLane_setWidth _ _ (by omega), if_pos (Nat.sub_self j)]
  · rw [if_neg (by omega), if_neg (by omega), byteLane_setWidth _ _ (by omega), if_neg (by omega)]

/-- The first byte and the later ones stand in different lanes, so their sum is their or. -/
theorem byteLane_le64At (i : Nat) (bs : List Byte) {j : Nat} (hj : j < 8) :
    byteLane (le64At i bs) j = if i ≤ j then bs.getD (j - i) 0 else 0 := by
  induction bs generalizing i j with
  | nil =>
    rw [le64At, byteLane_zero, List.getD_nil, ite_self]
  | cons b bs ih =>
    have disjoint : (b.setWidth 64 <<< (8 * i)) &&& le64At (i + 1) bs = (0 : Word) := by
      apply eq_of_byteLane_eq
      intro k hk
      rw [byteLane_and, byteLane_setWidth_shiftLeft _ _ hk, ih (i + 1) hk, byteLane_zero]
      by_cases hki : k = i
      · rw [if_neg (by omega : ¬ i + 1 ≤ k)]
        exact BitVec.and_zero
      · rw [if_neg hki]
        exact BitVec.zero_and
    rw [le64At, BitVec.add_eq_or_of_and_eq_zero _ _ disjoint, byteLane_or, byteLane_setWidth_shiftLeft _ _ hj,
      ih (i + 1) hj]
    rcases Nat.lt_trichotomy j i with h | rfl | h
    · rw [if_neg (by omega), if_neg (by omega), if_neg (by omega)]
      rfl
    · rw [if_pos rfl, if_neg (by omega), if_pos (Nat.le_refl j), Nat.sub_self]
      exact BitVec.or_zero
    · rw [if_neg (by omega), if_pos (by omega), if_pos (by omega), show j - i = j - (i + 1) + 1 by omega]
      exact BitVec.zero_or

/-- Lane `j` of a little-endian word is byte `j`, and 0 above the last byte (R8, R50). -/
theorem byteLane_le64 (bs : List Byte) {j : Nat} (hj : j < 8) : byteLane (le64 bs) j = bs.getD j 0 := by
  rw [le64, byteLane_le64At 0 bs hj, if_pos (Nat.zero_le j), Nat.sub_zero]

/-- One more byte goes to the next lane (R32). -/
theorem le64_concat (bs : List Byte) (b : Byte) :
    le64 (bs ++ [b]) = le64 bs ||| (b.setWidth 64 <<< (8 * bs.length)) := by
  apply eq_of_byteLane_eq
  intro j hj
  rw [byteLane_le64 _ hj, byteLane_or, byteLane_le64 _ hj, byteLane_setWidth_shiftLeft _ _ hj]
  rcases Nat.lt_trichotomy j bs.length with h | rfl | h
  · rw [List.getD_append _ _ _ _ h, if_neg (by omega)]
    exact BitVec.or_zero.symm
  · rw [List.getD_append_right _ _ _ _ (Nat.le_refl _), List.getD_eq_default _ _ (Nat.le_refl _), if_pos rfl,
      Nat.sub_self]
    exact BitVec.zero_or.symm
  · rw [List.getD_eq_default _ _ (by simpa using h), List.getD_eq_default _ _ (by omega), if_neg (by omega)]
    rfl

/-- A piece of up to eight bytes is what the lanes of DATA give back, whatever stands above it (R51). -/
theorem lanes_le64_or_shiftLeft (bs : List Byte) (above : Word) (hlen : bs.length ≤ 8) :
    lanes (le64 bs ||| (above <<< (8 * bs.length))) bs.length = bs := by
  apply List.ext_getElem (lanes_length _ _)
  intro j _ hj
  have h8 : j < 8 := by omega
  simp only [lanes, List.getElem_map, List.getElem_range]
  rw [byteLane_or, byteLane_shiftLeft _ _ _ h8, if_pos hj, byteLane_le64 _ h8, List.getD_eq_getElem _ _ hj]
  exact BitVec.or_zero

theorem lanes_pieceData (p : Piece) (hlen : p.bytes.length ≤ 8) : lanes (pieceData p) p.bytes.length = p.bytes :=
  lanes_le64_or_shiftLeft p.bytes p.above hlen

/-! ### Chunks and tail of a message that grows by one byte -/

theorem tailOf_length (m : List Byte) : (tailOf m).length = m.length % 8 := by
  rw [tailOf, List.length_drop]
  omega

theorem tailOf_getD (m : List Byte) (j : Nat) (d : Byte) : (tailOf m).getD j d = m.getD (8 * (m.length / 8) + j) d := by
  simp [tailOf, List.getD_eq_getElem?_getD]

theorem chunkAt_append_of_lt (m u : List Byte) {c : Nat} (hc : c < m.length / 8) : chunkAt (m ++ u) c = chunkAt m c := by
  rw [chunkAt, chunkAt, List.drop_append_of_le_length (by omega),
    List.take_append_of_le_length (by rw [List.length_drop]; omega)]

/-- The fold of the complete chunks of `m`, while `m` is the start of a longer message. -/
theorem foldl_chunkAt_append (m u : List Byte) (h : Word) :
    (List.range (m.length / 8)).foldl (fun a c => chunkStep a (chunkAt (m ++ u) c)) h = chunkFold m h :=
  List.foldl_ext _ _ _ fun a c hc => by rw [chunkAt_append_of_lt m u (List.mem_range.mp hc)]

section
variable (m : List Byte) (b : Byte) (h : Word)

theorem chunkFold_concat_of_lt (hm : m.length % 8 < 7) : chunkFold (m ++ [b]) h = chunkFold m h := by
  rw [← foldl_chunkAt_append m [b] h, chunkFold, List.length_append, List.length_singleton,
    show (m.length + 1) / 8 = m.length / 8 by omega]

theorem tailOf_concat_of_lt (hm : m.length % 8 < 7) : tailOf (m ++ [b]) = tailOf m ++ [b] := by
  rw [tailOf, tailOf, List.length_append, List.length_singleton, show (m.length + 1) / 8 = m.length / 8 by omega,
    List.drop_append_of_le_length (by omega)]

/-- The byte that fills a chunk folds it: the tail so far and the byte (R123). -/
theorem chunkFold_concat_of_eq (hm : m.length % 8 = 7) :
    chunkFold (m ++ [b]) h = chunkStep (chunkFold m h) (le64 (tailOf m ++ [b])) := by
  have last : chunkAt (m ++ [b]) (m.length / 8) = le64 (tailOf m ++ [b]) := by
    rw [chunkAt, List.drop_append_of_le_length (by omega), ← tailOf, List.take_of_length_le]
    rw [List.length_append, tailOf_length, List.length_singleton]
    omega
  rw [chunkFold, List.length_append, List.length_singleton, show (m.length + 1) / 8 = m.length / 8 + 1 by omega,
    List.range_succ, List.foldl_append, foldl_chunkAt_append, List.foldl_cons, List.foldl_nil, last]

theorem tailOf_concat_of_eq (hm : m.length % 8 = 7) : tailOf (m ++ [b]) = [] := by
  apply List.eq_nil_of_length_eq_zero
  rw [tailOf_length, List.length_append, List.length_singleton]
  omega

end

/-! ### The loop of ABSORB over a message -/

/-- The loop's variables after the message `m` from the accumulator `h₀`: the complete chunks are folded and the tail is
in the chunk being assembled (R32). -/
structure ChunkAcc.Holds (a : ChunkAcc) (h₀ : Word) (m : List Byte) : Prop where
  h : a.h = chunkFold m h₀
  buf : a.buf = le64 (tailOf m)
  cnt : a.cnt = m.length % 8

theorem absorbByte_holds {a : ChunkAcc} {h₀ : Word} {m : List Byte} (ha : a.Holds h₀ m) (b : Byte) :
    (absorbByte a b).Holds h₀ (m ++ [b]) := by
  have hbuf : a.buf ||| (b.setWidth 64 <<< (8 * a.cnt)) = le64 (tailOf m ++ [b]) := by
    rw [le64_concat, tailOf_length, ha.buf, ha.cnt]
  have hcnt := ha.cnt
  rcases Nat.lt_or_ge a.cnt 7 with h7 | h7
  · rw [absorbByte_of_lt b h7]
    have hm : m.length % 8 < 7 := by omega
    constructor
    · rw [chunkFold_concat_of_lt m b h₀ hm, ha.h]
    · rw [tailOf_concat_of_lt m b hm, hbuf]
    · rw [List.length_append, List.length_singleton]
      show a.cnt + 1 = _
      omega
  · have hm : m.length % 8 = 7 := by omega
    have h7 : a.cnt = 7 := by omega
    rw [h7] at hbuf
    rw [absorbByte_of_eq b h7]
    constructor
    · rw [chunkFold_concat_of_eq m b h₀ hm, ha.h, ← hbuf]
    · rw [tailOf_concat_of_eq m b hm, le64_nil]
    · rw [List.length_append, List.length_singleton]
      show 0 = _
      omega

/-- The loop over the bytes of a piece takes the message so far to the message with the piece (R123, R126). -/
theorem absorbBytes_holds {a : ChunkAcc} {h₀ : Word} {m : List Byte} (ha : a.Holds h₀ m) (bs : List Byte) :
    (absorbBytes a bs).Holds h₀ (m ++ bs) := by
  induction bs generalizing a m with
  | nil => rwa [List.append_nil]
  | cons b bs ih =>
    have next := ih (absorbByte_holds ha b)
    rwa [List.append_assoc, List.singleton_append] at next

/-! ### The accesses of a stream, step by step -/

theorem decode_encode_of_wf {i : Instr} (hi : i.wf = true) : decode (encode i) = .instr i := by
  cases i with
  | nop | start | finish | abort => rfl
  | absorb n =>
    have hn : n < 16 := by simpa [Instr.wf] using hi
    have all : ∀ k < 16, decode (encode (.absorb k)) = .instr (.absorb k) := by decide
    exact all n hn

theorem windowOffset_reg (r : Reg) : windowOffset (.offset r.offset) = some r.offset :=
  windowOffset_eq_some.mpr ⟨by cases r <;> decide, .inl rfl⟩

/-- A write that the host places at a register is performed by the next step (R140). -/
theorem step_wr {s : State} {r : Reg} {v : Word} {rest : List HostEvent} (hl : s.resetLine = false)
    (hi : s.inbox = wr r v :: rest) : step s = hostWrite r v { s with inbox := rest } := by
  have selected : selectReg 64 (.offset r.offset) { s with inbox := rest } = .ok r :=
    selectReg_eq_ok.mpr ⟨hl, rfl, windowOffset_reg r⟩
  rw [step, receive, hi]
  simp only [wr, perform, selected]

/-- A well-formed command that the host issues is performed by the next step (R120). -/
theorem step_issue {s : State} {i : Instr} {rest : List HostEvent} (hw : i.wf = true) (hl : s.resetLine = false)
    (hi : s.inbox = issue i :: rest) : step s = exec i { s with inbox := rest } := by
  rw [step_wr hl hi]
  simp only [hostWrite, runCommand, decode_encode_of_wf hw]

theorem exec_start_of_ne_absorb {s : State} (hp : s.phase ≠ .absorb) : exec .start s = .next (beginHash s) := by
  simp only [exec, execStart, if_neg hp]

theorem exec_absorb_of_fits {n : Nat} {s : State} (hp : s.phase = .absorb) (hn : badByteCount n = false)
    (fits : s.cnt.toNat + n ≤ s.latlen.toNat) :
    exec (.absorb n) s = .next (storeAbsorbed (absorbBytes (chunkAcc s) (lanes s.datar n)) n s) := by
  simp [exec, execAbsorb, hp, hn, overruns_eq_false.mpr fits]

/-- `BEGIN seed, len` in IDLE or DONE (R80, R122). -/
theorem runSteps_beginSeq {s : State} {seed len : Word} {rest : List HostEvent} (hl : s.resetLine = false)
    (hp : s.phase ≠ .absorb) (hi : s.inbox = beginSeq seed len ++ rest) :
    runSteps (beginSeq seed len).length s =
      .next (beginHash { s with seedr := seed, lenr := len, inbox := rest }) := by
  have hseed : step s = .next { s with seedr := seed, inbox := wr .len len :: issue .start :: rest } :=
    step_wr hl hi
  have hlen : step { s with seedr := seed, inbox := wr .len len :: issue .start :: rest } =
      .next { s with seedr := seed, lenr := len, inbox := issue .start :: rest } :=
    step_wr (s := { s with seedr := seed, inbox := wr .len len :: issue .start :: rest }) hl rfl
  have hstart : step { s with seedr := seed, lenr := len, inbox := issue .start :: rest } =
      .next (beginHash { s with seedr := seed, lenr := len, inbox := rest }) :=
    (step_issue (s := { s with seedr := seed, lenr := len, inbox := issue .start :: rest }) rfl hl rfl).trans
      (exec_start_of_ne_absorb hp)
  rw [show (beginSeq seed len).length = 0 + 1 + 1 + 1 from rfl, runSteps_succ_of_next hseed,
    runSteps_succ_of_next hlen, runSteps_succ_of_next hstart, runSteps_zero]

/-- `WR DATA, ...; ABSORB |p|` for a legal piece that fits the latched length (R123, R126). -/
theorem runSteps_pushPiece {s : State} {p : Piece} {rest : List HostEvent} (hl : s.resetLine = false)
    (hp : s.phase = .absorb) (hn : badByteCount p.bytes.length = false)
    (fits : s.cnt.toNat + p.bytes.length ≤ s.latlen.toNat) (hi : s.inbox = pushPiece p ++ rest) :
    runSteps (pushPiece p).length s =
      .next (storeAbsorbed (absorbBytes (chunkAcc s) p.bytes) p.bytes.length
        { s with datar := pieceData p, inbox := rest }) := by
  obtain ⟨-, hle⟩ := badByteCount_eq_false.mp hn
  have hw : (Instr.absorb p.bytes.length).wf = true := decide_eq_true (by omega)
  have hdata : step s = .next { s with datar := pieceData p, inbox := issue (.absorb p.bytes.length) :: rest } :=
    step_wr hl hi
  have habsorb : step { s with datar := pieceData p, inbox := issue (.absorb p.bytes.length) :: rest } =
      .next (storeAbsorbed (absorbBytes (chunkAcc s) (lanes (pieceData p) p.bytes.length)) p.bytes.length
        { s with datar := pieceData p, inbox := rest }) :=
    (step_issue (s := { s with datar := pieceData p, inbox := issue (.absorb p.bytes.length) :: rest }) hw hl rfl).trans
      (exec_absorb_of_fits hp hn fits)
  rw [lanes_pieceData p hle] at habsorb
  rw [show (pushPiece p).length = 0 + 1 + 1 from rfl, runSteps_succ_of_next hdata, runSteps_succ_of_next habsorb,
    runSteps_zero]

/-! ### In mid stream -/

/-- `t` is in mid stream: since START, with the seed `seed` and the length `len`, the bytes `m` have been absorbed, and the
flags and the host's replies are those of the state `s` before the stream (R32, R126). -/
structure MidStream (s : State) (seed len : Word) (m : List Byte) (t : State) : Prop where
  phase : t.phase = .absorb
  resetLine : t.resetLine = false
  latlen : t.latlen = len
  cnt : t.cnt.toNat = m.length
  acc : (chunkAcc t).Holds (init seed len) m
  err : t.err = s.err
  errcode : t.errcode = s.errcode
  replies : t.replies = s.replies

theorem midStream_beginHash {s : State} (seed len : Word) (rest : List HostEvent) (hl : s.resetLine = false) :
    MidStream s seed len [] (beginHash { s with seedr := seed, lenr := len, inbox := rest }) where
  phase := rfl
  resetLine := hl
  latlen := rfl
  cnt := rfl
  acc := by constructor <;> rfl
  err := rfl
  errcode := rfl
  replies := rfl

/-- The loop of an ABSORB stores what it holds: `bufcnt` keeps a count below 8. -/
theorem chunkAcc_storeAbsorbed {a : ChunkAcc} (ha : a.cnt < 8) (n : Nat) (s : State) :
    chunkAcc (storeAbsorbed a n s) = a := by
  have hcnt : (BitVec.ofNat 3 a.cnt).toNat = a.cnt := by
    rw [BitVec.toNat_ofNat]
    exact Nat.mod_eq_of_lt ha
  simp only [chunkAcc, storeAbsorbed_h, storeAbsorbed_buf, storeAbsorbed_bufcnt, hcnt]

/-- One legal piece that fits the declared length takes the stream on by its bytes (R126). -/
theorem MidStream.after_pushPiece {s t : State} {seed len : Word} {m : List Byte} {p : Piece} {rest : List HostEvent}
    (mid : MidStream s seed len m t) (hn : badByteCount p.bytes.length = false)
    (fits : m.length + p.bytes.length ≤ len.toNat) (hi : t.inbox = pushPiece p ++ rest) :
    ∃ u, runSteps (pushPiece p).length t = .next u ∧ MidStream s seed len (m ++ p.bytes) u ∧ u.inbox = rest := by
  have hfits : t.cnt.toNat + p.bytes.length ≤ t.latlen.toNat := by rwa [mid.cnt, mid.latlen]
  have acc := absorbBytes_holds mid.acc p.bytes
  have hlt : (absorbBytes (chunkAcc t) p.bytes).cnt < 8 := by
    rw [acc.cnt]
    exact Nat.mod_lt _ (by decide)
  refine ⟨_, runSteps_pushPiece mid.resetLine mid.phase hn hfits hi, ?_, rfl⟩
  exact {
    phase := mid.phase
    resetLine := mid.resetLine
    latlen := mid.latlen
    cnt := by
      rw [storeAbsorbed_cnt_toNat (s := { t with datar := pieceData p, inbox := rest }) hfits, mid.cnt,
        List.length_append]
    acc := by rwa [chunkAcc_storeAbsorbed hlt]
    err := mid.err
    errcode := mid.errcode
    replies := mid.replies }

@[simp] theorem messageOf_nil : messageOf [] = [] := rfl

@[simp] theorem messageOf_cons (p : Piece) (ps : List Piece) : messageOf (p :: ps) = p.bytes ++ messageOf ps := rfl

theorem piecesLegal_cons {p : Piece} {ps : List Piece} :
    piecesLegal (p :: ps) = true ↔ badByteCount p.bytes.length = false ∧ piecesLegal ps = true := by
  simp [piecesLegal]

/-- Any legal pieces that fit the declared length take the stream on by their message (R126). -/
theorem MidStream.after_pushPieces {s t : State} {seed len : Word} {m : List Byte} {ps : List Piece} {rest : List HostEvent}
    (mid : MidStream s seed len m t) (legal : piecesLegal ps = true)
    (fits : m.length + (messageOf ps).length ≤ len.toNat) (hi : t.inbox = ps.flatMap pushPiece ++ rest) :
    ∃ u, runSteps (ps.flatMap pushPiece).length t = .next u ∧ MidStream s seed len (m ++ messageOf ps) u ∧
      u.inbox = rest := by
  induction ps generalizing t m with
  | nil => exact ⟨t, rfl, by rwa [messageOf_nil, List.append_nil], hi⟩
  | cons p ps ih =>
    obtain ⟨hn, hps⟩ := piecesLegal_cons.mp legal
    rw [messageOf_cons, List.length_append] at fits
    rw [List.flatMap_cons, List.append_assoc] at hi
    obtain ⟨u, hrun, hu, hinbox⟩ := mid.after_pushPiece hn (by omega) hi
    obtain ⟨v, hrest, hv, hend⟩ := ih hu hps (by rw [List.length_append]; omega) hinbox
    refine ⟨v, ?_, by rwa [messageOf_cons, ← List.append_assoc], hend⟩
    rw [List.flatMap_cons, List.length_append, runSteps_add hrun, hrest]

/-- START and any legal pieces that fit the declared length, from IDLE or DONE, end in mid stream (R122, R126). -/
theorem midStream_of_beginSeq_pushPieces {s : State} {seed len : Word} {ps : List Piece} {rest : List HostEvent}
    (hl : s.resetLine = false) (hp : s.phase ≠ .absorb) (legal : piecesLegal ps = true)
    (fits : (messageOf ps).length ≤ len.toNat)
    (hi : s.inbox = beginSeq seed len ++ ps.flatMap pushPiece ++ rest) :
    ∃ t, runSteps (beginSeq seed len ++ ps.flatMap pushPiece).length s = .next t ∧
      MidStream s seed len (messageOf ps) t ∧ t.inbox = rest := by
  rw [List.append_assoc] at hi
  obtain ⟨t, hrun, mid, hend⟩ :=
    (midStream_beginHash seed len (ps.flatMap pushPiece ++ rest) hl).after_pushPieces legal (by simpa using fits) rfl
  exact ⟨t, by rw [List.length_append, runSteps_add (runSteps_beginSeq hl hp hi), hrun], mid, hend⟩

/-- Settles O57: what BUF, BUFCNT and H hold is what `MidStream` says of the loop's variables. -/
theorem partialStreamState : Obligations.PartialStreamState := by
  intro seed len ps s arrived rest legal fits order hl hp hi
  cases order
  obtain ⟨t, hrun, mid, hend⟩ := midStream_of_beginSeq_pushPieces hl hp legal fits hi
  have hbuf : t.buf = le64 (tailOf (messageOf ps)) := mid.acc.buf
  have hbufcnt : t.bufcnt.toNat = (messageOf ps).length % 8 := mid.acc.cnt
  refine ⟨t, hrun, mid.phase, mid.cnt, by rw [hbufcnt, mid.cnt], fun j hj => ?_, mid.acc.h, mid.latlen, mid.err,
    mid.errcode, hend⟩
  rw [hbuf, byteLane_le64 _ hj, tailOf_getD, mid.cnt]

end Sys2Proof.Machine

/-! SUPPORT. Byte order, the bytes an ABSORB takes from DATA, and which host accesses the window admits
(spec/20_memory.md R50 to R59; spec/42_register_access.md R142). -/

namespace Sys2Proof.Machine

open Sys2Proof

/-! ### The little-endian sum -/

/-- `le64At` is the number whose digits in base 256 are the bytes, least significant first, moved up by `i` digits; what
does not fit 64 bits is lost (R8). -/
theorem le64At_toNat (i : Nat) (bs : List Byte) :
    (le64At i bs).toNat = 256 ^ i * Nat.ofDigits 256 (bs.map BitVec.toNat) % 2 ^ 64 := by
  induction bs generalizing i with
  | nil => rfl
  | cons b bs ih =>
    have hb : (b.setWidth 64 <<< (8 * i)).toNat = b.toNat * 256 ^ i % 2 ^ 64 := by
      rw [BitVec.toNat_shiftLeft, BitVec.toNat_setWidth_of_le (by omega), Nat.shiftLeft_eq, Nat.pow_mul]
    rw [le64At, BitVec.toNat_add, hb, ih, ← Nat.add_mod, List.map_cons, Nat.ofDigits_cons]
    congr 1
    ring

theorem ofDigits_bytes_lt (bs : List Byte) : Nat.ofDigits 256 (bs.map BitVec.toNat) < 256 ^ bs.length := by
  have h := Nat.ofDigits_lt_base_pow_length (b := 256) (l := bs.map BitVec.toNat) (by decide) fun x hx => by
    obtain ⟨b, -, rfl⟩ := List.mem_map.mp hx
    exact b.isLt
  rwa [List.length_map] at h

/-- Up to eight bytes fit, so nothing of the sum is lost (R8, R50). -/
theorem le64_toNat {bs : List Byte} (hlen : bs.length ≤ 8) :
    (le64 bs).toNat = Nat.ofDigits 256 (bs.map BitVec.toNat) := by
  have hpow : 256 ^ bs.length ≤ 256 ^ 8 := Nat.pow_le_pow_right (by decide) hlen
  have hlt := ofDigits_bytes_lt bs
  rw [le64, le64At_toNat, Nat.pow_zero, Nat.one_mul, Nat.mod_eq_of_lt (by omega)]

/-- The base 256 number, written as the sum of R50. -/
theorem ofDigits_bytes_eq_sum (bs : List Byte) :
    Nat.ofDigits 256 (bs.map BitVec.toNat) =
      ((List.range bs.length).map fun i => (bs.getD i 0).toNat * 2 ^ (8 * i)).sum := by
  rw [Nat.ofDigits_eq_sum_mapIdx]
  congr 1
  apply List.ext_getElem (by simp)
  intro i _ hi
  have hib : i < bs.length := by simpa using hi
  simp [hib, Nat.pow_mul]

/-- Settles O6: the sum is the base 256 number of the bytes, the lanes are `byteLane_le64`. -/
theorem littleEndianWordHoldsBytesInLanes : Obligations.LittleEndianWordHoldsBytesInLanes := by
  intro bs hlen
  exact ⟨by rw [le64_toNat hlen, ofDigits_bytes_eq_sum], fun j hj => byteLane_le64 bs hj⟩

theorem lanes_getD (d : Word) {n j : Nat} (hj : j < n) : (lanes d n).getD j 0 = byteLane d j := by
  simp [lanes, hj]

/-- A word is the little-endian word of its eight lanes (R52). -/
theorem le64_lanes (d : Word) : le64 (lanes d 8) = d :=
  eq_of_byteLane_eq fun j hj => by rw [byteLane_le64 _ hj, lanes_getD d hj]

/-- Settles O7. -/
theorem dataLanesGiveThePieceBack : Obligations.DataLanesGiveThePieceBack :=
  ⟨lanes_le64_or_shiftLeft, le64_lanes⟩

/-! ### The lanes an ABSORB takes -/

theorem lanes_congr {d d' : Word} {n : Nat} (h : ∀ j < n, byteLane d j = byteLane d' j) : lanes d n = lanes d' n :=
  List.map_congr_left fun j hj => h j (List.mem_range.mp hj)

section
variable {n : Nat} {s : State}

/-! The three errors of an ABSORB (R123). What it does without one is `exec_absorb_of_fits`. -/

theorem exec_absorb_of_ne_absorb (hp : s.phase ≠ .absorb) :
    exec (.absorb n) s = .next (raiseCmdError .sequence s) := by
  simp [exec, execAbsorb, hp]

theorem exec_absorb_of_badByteCount (hp : s.phase = .absorb) (hn : badByteCount n = true) :
    exec (.absorb n) s = .next (raiseCmdError .badNbytes s) := by
  simp [exec, execAbsorb, hp, hn]

theorem exec_absorb_of_overruns (hp : s.phase = .absorb) (hn : badByteCount n = false) (exceeds : overruns n s = true) :
    exec (.absorb n) s = .next (raiseCmdError .overrun s) := by
  simp [exec, execAbsorb, hp, hn, exceeds]

end

/-- An ABSORB is refused with an error that DATA has no part in, or it has the phase, the count and the room it needs
(R123, R162). -/
theorem absorb_refused_or_fits (n : Nat) (s : State) :
    (∃ e, ∀ d, exec (.absorb n) { s with datar := d } = .next (raiseCmdError e { s with datar := d })) ∨
    (s.phase = .absorb ∧ badByteCount n = false ∧ s.cnt.toNat + n ≤ s.latlen.toNat) := by
  by_cases hp : s.phase = .absorb
  · cases hn : badByteCount n with
    | true => exact .inl ⟨.badNbytes, fun d => exec_absorb_of_badByteCount (s := { s with datar := d }) hp hn⟩
    | false =>
      cases exceeds : overruns n s with
      | true => exact .inl ⟨.overrun, fun d => exec_absorb_of_overruns (s := { s with datar := d }) hp hn exceeds⟩
      | false => exact .inr ⟨hp, rfl, overruns_eq_false.mp exceeds⟩
  · exact .inl ⟨.sequence, fun d => exec_absorb_of_ne_absorb (s := { s with datar := d }) hp⟩

/-- Settles O21: a refusal does not look at DATA, and an accepted ABSORB takes the same bytes from both values. -/
theorem absorbIgnoresUnusedLanes : Obligations.AbsorbIgnoresUnusedLanes := by
  intro n s d agree
  rcases absorb_refused_or_fits n s with ⟨e, refused⟩ | ⟨hp, hn, fits⟩
  · exact ⟨raiseCmdError e s, refused s.datar, refused d⟩
  · refine ⟨_, exec_absorb_of_fits hp hn fits, ?_⟩
    rw [lanes_congr agree]
    exact exec_absorb_of_fits (s := { s with datar := d }) hp hn fits

/-- The later of two stores of an ABSORB leaves its own chunk, and the counts add up (R29). -/
theorem storeAbsorbed_storeAbsorbed (a b : ChunkAcc) (m k : Nat) (s : State) :
    storeAbsorbed b k (storeAbsorbed a m s) = storeAbsorbed b (m + k) s := by
  simp only [storeAbsorbed, BitVec.ofNat_add, BitVec.add_assoc]

/-- An ABSORB that fits after one that left `a` goes on from `a` (R57). -/
theorem exec_absorb_storeAbsorbed {a : ChunkAcc} {m k : Nat} {s : State} (hp : s.phase = .absorb) (ha : a.cnt < 8)
    (hk : badByteCount k = false) (fits : s.cnt.toNat + m + k ≤ s.latlen.toNat) :
    exec (.absorb k) (storeAbsorbed a m s) = .next (storeAbsorbed (absorbBytes a (lanes s.datar k)) (m + k) s) := by
  have hcnt := storeAbsorbed_cnt_toNat (n := m) (s := s) (by omega) a
  have absorbed := exec_absorb_of_fits (s := storeAbsorbed a m s) hp hk (by rwa [hcnt])
  rw [absorbed, chunkAcc_storeAbsorbed ha, storeAbsorbed_storeAbsorbed, storeAbsorbed_datar]

/-- The loop over `m + k` lanes is the loop over the low `m`, then over the next `k` (R57). -/
theorem absorbBytes_lanes_add (a : ChunkAcc) (d : Word) (m k : Nat) :
    absorbBytes a (lanes d (m + k)) = absorbBytes (absorbBytes a (lanes d m)) (lanes (d >>> (8 * m)) k) := by
  rw [lanes_add, absorbBytes_append]

/-- Settles O22: the second ABSORB takes the loop up where the first stored it. -/
theorem absorbOfSumIsTwoAbsorbs : Obligations.AbsorbOfSumIsTwoAbsorbs := by
  intro m k s hp hm hk hmk fits
  have whole := exec_absorb_of_fits (n := m + k) hp (badByteCount_eq_false.mpr ⟨by omega, hmk⟩) (by omega)
  have first := exec_absorb_of_fits (n := m) hp (badByteCount_eq_false.mpr ⟨hm, by omega⟩) (by omega)
  have hlt : (absorbBytes (chunkAcc s) (lanes s.datar m)).cnt < 8 := by
    rw [absorbBytes_cnt _ _ s.bufcnt.isLt]
    exact Nat.mod_lt _ (by decide)
  have second := exec_absorb_storeAbsorbed (s := { s with datar := s.datar >>> (8 * m) }) hp hlt
    (badByteCount_eq_false.mpr ⟨hk, by omega⟩) fits
  rw [← absorbBytes_lanes_add] at second
  exact ⟨_, _, whole, first, second⟩

/-! ### Which accesses are admitted -/

/-- The window has a register at every multiple of 8 (R142). -/
theorem exists_reg_offset {off : Nat} (hoff : off < 64) : (∃ r : Reg, off = r.offset) ↔ off % 8 = 0 := by
  constructor
  · rintro ⟨r, rfl⟩
    cases r <;> rfl
  · intro h8
    have all : ∀ q < 8, ∃ r ∈ [Reg.cmd, .status, .seed, .len, .data, .result, .hacc, .count], 8 * q = r.offset := by
      decide
    obtain ⟨r, -, hr⟩ := all (off / 8) (by omega)
    exact ⟨r, by omega⟩

section
variable {s : State} {t : Target} {off bits : Nat} (hl : s.resetLine = false)
include hl

theorem selectReg_of_outside (hw : windowOffset t = none) : selectReg bits t s = .error .outsideWindow := by
  simp [selectReg, hl, hw]

theorem selectReg_of_width (hw : windowOffset t = some off) (hb : bits ≠ 64) :
    selectReg bits t s = .error .accessWidth := by
  simp [selectReg, hl, hw, selectOffset, hb]

theorem selectReg_of_misaligned (hw : windowOffset t = some off) (h8 : off % 8 ≠ 0) :
    selectReg 64 t s = .error .misaligned := by
  have hr : regAt off = none := Option.eq_none_iff_forall_ne_some.mpr fun r hr =>
    h8 ((exists_reg_offset (windowOffset_lt hw)).mp ⟨r, regAt_eq_some.mp hr⟩)
  simp [selectReg, hl, hw, selectOffset, hr]

end

/-- Every host write completes: no command word stops the engine (R140, R160). -/
theorem hostWrite_completes (r : Reg) (v : Word) (s : State) : ∃ t, hostWrite r v s = .next t := by
  cases r with
  | cmd =>
    rcases runCommand_cases v s with
      ⟨_, h, -⟩ | ⟨-, h⟩ | ⟨-, -, h⟩ | ⟨_, -, -, -, -, -, h⟩ | ⟨-, -, -, h⟩ | ⟨-, h⟩
    all_goals exact ⟨_, h⟩
  | status | seed | len | data | result | hacc | count => exact ⟨_, rfl⟩

section
variable {s : State} {e : HostEvent} {rest : List HostEvent} {bits : Nat} {target : Target} {v : Word}

theorem step_of_inbox_cons (hi : s.inbox = e :: rest) : step s = perform e { s with inbox := rest } := by
  rw [step, receive, hi]

/-- An access that selects a register is performed (R140, R141). -/
theorem step_of_selectReg_ok {r : Reg} (he : e = .read bits target ∨ e = .write bits target v)
    (hi : s.inbox = e :: rest) (selected : selectReg bits target { s with inbox := rest } = .ok r) :
    ∃ t, step s = .next t := by
  rw [step_of_inbox_cons hi]
  rcases he with rfl | rfl
  · exact ⟨_, by simp only [perform, selected]; rfl⟩
  · simp only [perform, selected]
    exact hostWrite_completes r v _

/-- An access that selects no register is refused (R56, R142). -/
theorem step_of_selectReg_error {why : Refusal} (he : e = .read bits target ∨ e = .write bits target v)
    (hi : s.inbox = e :: rest) (refused : selectReg bits target { s with inbox := rest } = .error why) :
    step s = .refused why := by
  rw [step_of_inbox_cons hi]
  rcases he with rfl | rfl <;> simp only [perform, refused]

end

/-- Settles O42: an aligned 64-bit access selects the register at its offset, every other one selects none. -/
theorem onlyAlignedSixtyFourBitAccessesAdmitted : Obligations.OnlyAlignedSixtyFourBitAccessesAdmitted := by
  intro s rest bits off v e hl hoff he hi
  have hw : windowOffset (.offset off) = some off := windowOffset_eq_some.mpr ⟨hoff, .inl rfl⟩
  refine ⟨fun ⟨hb, h8⟩ => ?_, fun hb => ?_, fun ⟨hb, h8⟩ => ?_⟩
  · obtain ⟨r, rfl⟩ := (exists_reg_offset hoff).mpr h8
    exact step_of_selectReg_ok he hi (selectReg_eq_ok.mpr ⟨hl, hb, hw⟩)
  · exact step_of_selectReg_error he hi (selectReg_of_width hl hw hb)
  · subst hb
    exact step_of_selectReg_error he hi (selectReg_of_misaligned hl hw h8)

/-! ### Reads -/

/-- A read that the host places at a register answers its value, and takes nothing but the event (R59, R141). -/
theorem step_rd {s : State} {r : Reg} {rest : List HostEvent} (hl : s.resetLine = false) (hi : s.inbox = rd r :: rest) :
    step s = .next (reply (readReg r s) { s with inbox := rest }) := by
  have selected : selectReg 64 (.offset r.offset) { s with inbox := rest } = .ok r :=
    selectReg_eq_ok.mpr ⟨hl, rfl, windowOffset_reg r⟩
  rw [step_of_inbox_cons hi]
  simp only [rd, perform, selected]
  cases r <;> rfl

/-- What a register reads does not depend on the events that wait or on the values already answered (R59). -/
theorem readReg_inbox_replies (r : Reg) (s : State) (inbox : List HostEvent) (replies : List Word) :
    readReg r { s with inbox := inbox, replies := replies } = readReg r s := by
  cases r <;> rfl

/-- Settles O41, by induction on the registers read. -/
theorem readsHaveNoSideEffect : Obligations.ReadsHaveNoSideEffect := by
  intro s rs rest hl hi
  induction rs generalizing s with
  | nil =>
    rw [List.map_nil, List.nil_append] at hi
    simp [← hi]
  | cons r rs ih =>
    have later := ih (reply (readReg r s) { s with inbox := rs.map rd ++ rest }) hl rfl
    rw [List.length_cons, runSteps_succ_of_next (step_rd hl hi)]
    refine later.trans ?_
    simp only [reply, readReg_inbox_replies, List.map_cons, List.append_assoc, List.singleton_append]

/-! ### The window -/

/-- An address in the window and its offset name the same place (R53). -/
theorem windowOffset_address {off : Nat} (hoff : off < 64) :
    windowOffset (.address (Config.engineBase + off)) = windowOffset (.offset off) :=
  (windowOffset_eq_some.mpr ⟨hoff, .inr rfl⟩).trans (windowOffset_eq_some.mpr ⟨hoff, .inl rfl⟩).symm

theorem windowOffset_address_outside {a : Nat} (ha : a < Config.engineBase ∨ Config.engineBase + 64 ≤ a) :
    windowOffset (.address a) = none := by
  apply Option.eq_none_iff_forall_ne_some.mpr
  intro off hw
  obtain ⟨hoff, h | h⟩ := windowOffset_eq_some.mp hw
  · cases h
  · cases h
    omega

theorem selectReg_congr {t t' : Target} (h : windowOffset t = windowOffset t') (bits : Nat) (s : State) :
    selectReg bits t s = selectReg bits t' s := by
  simp only [selectReg, h]

/-- Settles O43: an access is admitted and performed by the offset its target names, and outside the window there is none. -/
theorem windowIsSixtyFourBytesAtBase : Obligations.WindowIsSixtyFourBytesAtBase := by
  refine ⟨Nat.mul_mod_right _ _, fun s rest bits v => ⟨fun off hoff => ?_, fun a ha hl => ?_⟩⟩
  · have same := selectReg_congr (windowOffset_address hoff) bits { s with inbox := rest }
    constructor
    all_goals
      rw [step_of_inbox_cons rfl, step_of_inbox_cons rfl]
      simp only [perform, same]
  · have refused : selectReg bits (.address a) { s with inbox := rest } = .error .outsideWindow :=
      selectReg_of_outside hl (windowOffset_address_outside ha)
    exact ⟨step_of_selectReg_error (v := v) (.inl rfl) rfl refused, step_of_selectReg_error (.inr rfl) rfl refused⟩

end Sys2Proof.Machine

/-! SUPPORT. The words of the opcode map: a word is its four fields, a word that decodes is the one word of its command, and
every other word only records ILLEGAL_CMD (spec/30_encoding.md R71 to R78). -/

namespace Sys2Proof.Machine

open Sys2Proof

/-! ### The fields of a command word -/

/-- The four fields cover the word (R71). -/
theorem eq_of_fields_eq {w v : Word} (hop : opField w = opField v) (hrsv0 : rsv0Field w = rsv0Field v)
    (hnbytes : nbytesField w = nbytesField v) (hrsv1 : rsv1Field w = rsv1Field v) : w = v := by
  apply BitVec.eq_of_toNat_eq
  have op := congrArg BitVec.toNat hop
  have rsv0 := congrArg BitVec.toNat hrsv0
  have nbytes := congrArg BitVec.toNat hnbytes
  have rsv1 := congrArg BitVec.toNat hrsv1
  simp only [opField, rsv0Field, nbytesField, rsv1Field, BitVec.extractLsb'_toNat] at op rsv0 nbytes rsv1
  omega

theorem nbytesField_lt (w : Word) : (nbytesField w).toNat < 16 := (nbytesField w).isLt

/-- The fields of `ABSORB n` (R73). -/
theorem fields_encode_absorb {n : Nat} (hn : n < 16) :
    opField (encode (.absorb n)) = 0x2 ∧ rsv0Field (encode (.absorb n)) = 0 ∧
      nbytesField (encode (.absorb n)) = BitVec.ofNat 4 n ∧ rsv1Field (encode (.absorb n)) = 0 := by
  have all : ∀ k < 16, opField (encode (.absorb k)) = 0x2 ∧ rsv0Field (encode (.absorb k)) = 0 ∧
      nbytesField (encode (.absorb k)) = BitVec.ofNat 4 k ∧ rsv1Field (encode (.absorb k)) = 0 := by decide
  exact all n hn

/-- A word with the fields of an ABSORB is the word of that ABSORB. -/
theorem eq_encode_absorb_of_fields {w : Word} (hop : opField w = 0x2) (hrsv0 : rsv0Field w = 0) (hrsv1 : rsv1Field w = 0) :
    w = encode (.absorb (nbytesField w).toNat) := by
  obtain ⟨op, rsv0, nbytes, rsv1⟩ := fields_encode_absorb (nbytesField_lt w)
  apply eq_of_fields_eq
  · rw [hop, op]
  · rw [hrsv0, rsv0]
  · rw [nbytes, BitVec.ofNat_toNat, BitVec.setWidth_eq]
  · rw [hrsv1, rsv1]

/-! ### A word that decodes is the word of its command -/

/-- The decoder ignores no bit: the tests of R78 fix every field of a word they accept. -/
theorem wf_and_encode_of_decode {w : Word} {i : Instr} (h : decode w = .instr i) : i.wf = true ∧ encode i = w := by
  unfold decode at h
  split at h
  · cases h
  · rename_i reserved
    obtain ⟨hrsv1, hrsv0⟩ := not_or.mp reserved
    rw [not_not] at hrsv1 hrsv0
    split at h
    · rename_i hop
      cases h
      exact ⟨decide_eq_true (nbytesField_lt w), (eq_encode_absorb_of_fields hop hrsv0 hrsv1).symm⟩
    · split at h
      · cases h
      · rename_i hnbytes
        rw [not_not] at hnbytes
        have fixed : ∀ v, opField w = opField v → rsv0Field v = 0 → nbytesField v = 0 → rsv1Field v = 0 → v = w :=
          fun v op rsv0 nbytes rsv1 =>
            (eq_of_fields_eq op (hrsv0.trans rsv0.symm) (hnbytes.trans nbytes.symm) (hrsv1.trans rsv1.symm)).symm
        repeat' split at h
        all_goals cases h
        all_goals exact ⟨rfl, fixed _ (by assumption) rfl rfl rfl⟩

/-- A word decodes to a command exactly when it is the word of that command (R73, R78). -/
theorem decode_eq_instr {w : Word} {i : Instr} : decode w = .instr i ↔ i.wf = true ∧ w = encode i := by
  constructor
  · intro h
    obtain ⟨hwf, henc⟩ := wf_and_encode_of_decode h
    exact ⟨hwf, henc.symm⟩
  · rintro ⟨hwf, rfl⟩
    exact decode_encode_of_wf hwf

theorem decode_eq_instr_of_wf {i : Instr} (hi : i.wf = true) (w : Word) : decode w = .instr i ↔ w = encode i :=
  decode_eq_instr.trans (and_iff_right hi)

theorem decode_eq_absorb (w : Word) (n : Nat) : decode w = .instr (.absorb n) ↔ n < 16 ∧ w = encode (.absorb n) :=
  decode_eq_instr.trans (and_congr_left' decide_eq_true_iff)

/-! ### The masks of the opcode map -/

theorem and_fullMask (w : Word) : w &&& 0xFFFFFFFFFFFFFFFF = w := BitVec.and_allOnes

/-- The mask of ABSORB keeps every field but NBYTES (R73). -/
theorem fields_of_and_absorbMask {w v : Word} (h : w &&& 0xFFFFFFFFFFFFF0FF = v) :
    opField w = opField v ∧ rsv0Field w = rsv0Field v ∧ rsv1Field w = rsv1Field v := by
  subst h
  simp only [opField, rsv0Field, rsv1Field, BitVec.extractLsb'_and]
  exact ⟨BitVec.and_allOnes.symm, BitVec.and_allOnes.symm, BitVec.and_allOnes.symm⟩

/-- ABSORB's row of the opcode map selects the words of the ABSORBs of 0 to 15 bytes (R73). -/
theorem and_absorbMask_eq_iff {w : Word} :
    w &&& 0xFFFFFFFFFFFFF0FF = 0x2 ↔ ∃ n, (Instr.absorb n).wf = true ∧ w = encode (.absorb n) := by
  constructor
  · intro h
    obtain ⟨hop, hrsv0, hrsv1⟩ := fields_of_and_absorbMask h
    exact ⟨_, decide_eq_true (nbytesField_lt w), eq_encode_absorb_of_fields hop hrsv0 hrsv1⟩
  · rintro ⟨n, hwf, rfl⟩
    exact Laws.OpcodeRow.absorb n hwf

/-! ### Every other word -/

/-- A word that decodes to no command only records ILLEGAL_CMD (R78, R120). -/
theorem runCommand_of_not_command {w : Word} (h : ∀ i, decode w ≠ .instr i) (s : State) :
    runCommand w s = .next (raiseCmdError .illegalCmd s) := by
  unfold runCommand
  cases hd : decode w with
  | instr i => exact absurd hd (h i)
  | illegal r => rfl

/-- What ILLEGAL_CMD records: ERR, and code 1 when no code stands yet (R160, R161). -/
theorem raiseCmdError_illegalCmd (s : State) :
    raiseCmdError .illegalCmd s = { s with err := true, errcode := if s.errcode = 0 then 1 else s.errcode } := rfl

/-- Settles O4: each row is `decode_eq_instr_of_wf` of its command, and a word of no row is no command's word. -/
theorem decoderFollowsMatchAndMask : Obligations.DecoderFollowsMatchAndMask := by
  intro w
  have habsorb : (∃ n, decode w = .instr (.absorb n)) ↔ w &&& 0xFFFFFFFFFFFFF0FF = 0x2 := by
    simp only [decode_eq_instr, and_absorbMask_eq_iff]
  simp only [and_fullMask]
  refine ⟨decode_eq_instr_of_wf (i := .nop) rfl w, decode_eq_instr_of_wf (i := .start) rfl w, habsorb,
    decode_eq_absorb w, decode_eq_instr_of_wf (i := .finish) rfl w, decode_eq_instr_of_wf (i := .abort) rfl w,
    fun hnop hstart hmask hfinish habort s => ?_⟩
  apply runCommand_of_not_command
  intro i hd
  obtain ⟨-, rfl⟩ := decode_eq_instr.mp hd
  cases i with
  | nop => exact hnop rfl
  | start => exact hstart rfl
  | absorb n => exact hmask (habsorb.mp ⟨n, hd⟩)
  | finish => exact hfinish rfl
  | abort => exact habort rfl

/-- The reserved encodings: an OP of 0x4 to 0xE (R74), a bit of RSV0 or RSV1 (R75), NBYTES outside ABSORB (R76). -/
abbrev ReservedEncoding (w : Word) : Prop :=
  4 ≤ (opField w).toNat ∧ (opField w).toNat ≤ 14 ∨ rsv0Field w ≠ 0 ∨ rsv1Field w ≠ 0 ∨ (opField w ≠ 2 ∧ nbytesField w ≠ 0)

/-- No command's word is a reserved encoding (R73). -/
theorem encode_not_reservedEncoding {i : Instr} (hi : i.wf = true) : ¬ ReservedEncoding (encode i) := by
  cases i with
  | nop | start | finish | abort => decide
  | absorb n =>
    obtain ⟨op, rsv0, -, rsv1⟩ := fields_encode_absorb (of_decide_eq_true hi)
    simp [ReservedEncoding, op, rsv0, rsv1]

/-- Settles O5. -/
theorem reservedEncodingsOnlyRecordIllegalCmd : Obligations.ReservedEncodingsOnlyRecordIllegalCmd := by
  intro w s (reserved : ReservedEncoding w)
  rw [← raiseCmdError_illegalCmd]
  apply runCommand_of_not_command
  intro i hd
  obtain ⟨hwf, rfl⟩ := decode_eq_instr.mp hd
  exact encode_not_reservedEncoding hwf reserved

/-- Settles O48: the step performs the write, and the word it writes to CMD is no command. -/
theorem stepRecordsIllegalWord : Obligations.StepRecordsIllegalWord := by
  intro s rest w r hl hi hd
  rw [step_wr (r := .cmd) hl hi]
  exact runCommand_of_not_command (fun i h => by rw [hd] at h; cases h) _

end Sys2Proof.Machine

/-! SUPPORT. A whole hash: the tail fold as one XOR, FINISH at the end of a stream, and the pseudo-instruction HASH as a
stream of pieces followed by a read (spec/40_mix_datapath.md R104, R108; spec/30_encoding.md R80). -/

namespace Sys2Proof.Machine

open Sys2Proof

/-! ### The tail fold -/

theorem byteLane_xor (v w : Word) (j : Nat) : byteLane (v ^^^ w) j = byteLane v j ^^^ byteLane w j :=
  byteLane_eq_of_bits fun k hk => by
    rw [BitVec.getLsbD_xor, BitVec.getLsbD_xor, getLsbD_byteLane, getLsbD_byteLane]
    simp only [hk, decide_true, Bool.true_and]

/-- The lane of one more byte is 0 before it arrives, so it may enter by XOR (R104). -/
theorem le64_concat_xor (bs : List Byte) (b : Byte) :
    le64 (bs ++ [b]) = le64 bs ^^^ (b.setWidth 64 <<< (8 * bs.length)) := by
  rw [le64_concat]
  apply eq_of_byteLane_eq
  intro j hj
  rw [byteLane_or, byteLane_xor, byteLane_le64 _ hj, byteLane_setWidth_shiftLeft _ _ hj]
  split
  · rw [List.getD_eq_default _ _ (by omega)]
    exact BitVec.zero_or.trans BitVec.zero_xor.symm
  · exact BitVec.or_zero.trans BitVec.xor_zero.symm

theorem tailXor_append_of_lt (u v : List Byte) (h : Word) {i : Nat} (hi : i < u.length) :
    tailXor (u ++ v) h i = tailXor u h i := by
  rw [tailXor, tailXor, List.getD_append _ _ _ _ hi]

theorem foldl_tailXor_range (u : List Byte) (h : Word) : (List.range u.length).foldl (tailXor u) h = h ^^^ le64 u := by
  induction u using List.reverseRecOn with
  | nil => exact BitVec.xor_zero.symm
  | append_singleton u b ih =>
    have below : (List.range u.length).foldl (tailXor (u ++ [b])) h = h ^^^ le64 u :=
      (List.foldl_ext _ _ _ fun a i hi => tailXor_append_of_lt u [b] a (List.mem_range.mp hi)).trans ih
    rw [List.length_append, List.length_singleton, List.range_succ, List.foldl_append, below, List.foldl_cons,
      List.foldl_nil, tailXor, List.getD_append_right _ _ _ _ (Nat.le_refl _), Nat.sub_self, le64_concat_xor,
      BitVec.xor_assoc]
    rfl

theorem tailXor_rightCommutative (u : List Byte) : RightCommutative (tailXor u) where
  right_comm h i j := by
    simp only [tailXor, BitVec.xor_assoc]
    exact congrArg (h ^^^ ·) (BitVec.xor_comm _ _)

/-- The XORs of the tail fold may be made in any order (R108). -/
theorem foldl_tailXor_of_perm {u : List Byte} {order : List Nat} (hperm : order.Perm (List.range u.length)) (h : Word) :
    order.foldl (tailXor u) h = h ^^^ le64 u :=
  (hperm.foldl_eq (rcomm := tailXor_rightCommutative u) h).trans (foldl_tailXor_range u h)

/-- The tail fold is one XOR with the tail read little-endian, then one multiply (R108). -/
theorem tailStep_eq (h : Word) (u : List Byte) : tailStep h u = mulm (h ^^^ le64 u) := by
  rw [tailStep, foldl_tailXor_of_perm (List.reverse_perm _)]

/-! ### FINISH at the end of a stream -/

theorem exec_finish_of_complete {s : State} (hp : s.phase = .absorb) (hc : s.cnt = s.latlen) :
    exec .finish s = .next (publish (fin (mulm (s.h ^^^ s.buf))) s) := by
  simp [exec, execFinish, hp, hc]

/-- FINISH after all the declared bytes publishes their hash (R107, R124). -/
theorem MidStream.step_finish {s t : State} {seed : Word} {m : List Byte} {rest : List HostEvent}
    (mid : MidStream s seed (BitVec.ofNat 64 m.length) m t) (hi : t.inbox = issue .finish :: rest) :
    step t = .next (publish (Machine.hash64 m seed) { t with inbox := rest }) := by
  have complete : t.cnt = t.latlen := by
    rw [mid.latlen, ← mid.cnt, BitVec.ofNat_toNat, BitVec.setWidth_eq]
  have hh : t.h = chunkFold m (init seed (BitVec.ofNat 64 m.length)) := mid.acc.h
  have hbuf : t.buf = le64 (tailOf m) := mid.acc.buf
  rw [step_issue rfl mid.resetLine hi,
    exec_finish_of_complete (s := { t with inbox := rest }) mid.phase complete, hh, hbuf, ← tailStep_eq, hash64]

/-- The access sequence of R126 ends with the hash published from the end of the stream. -/
theorem runSteps_streamSeq {s : State} {seed : Word} {ps : List Piece} {rest : List HostEvent}
    (hl : s.resetLine = false) (hp : s.phase ≠ .absorb) (legal : piecesLegal ps = true)
    (hlen : (messageOf ps).length < 2 ^ 64) (hi : s.inbox = streamSeq seed ps ++ rest) :
    ∃ t, MidStream s seed (BitVec.ofNat 64 (messageOf ps).length) (messageOf ps) t ∧
      runSteps (streamSeq seed ps).length s =
        .next (publish (Machine.hash64 (messageOf ps) seed) { t with inbox := rest }) := by
  have fits : (messageOf ps).length ≤ (BitVec.ofNat 64 (messageOf ps).length).toNat := by
    rw [BitVec.toNat_ofNat, Nat.mod_eq_of_lt hlen]
  rw [streamSeq, List.append_assoc _ [issue .finish]] at hi
  obtain ⟨t, hrun, mid, hend⟩ := midStream_of_beginSeq_pushPieces hl hp legal fits hi
  refine ⟨t, mid, ?_⟩
  rw [streamSeq, List.length_append, runSteps_add hrun]
  exact runSteps_succ_of_next (mid.step_finish hend)

/-! ### HASH as a stream -/

/-- Complete chunk `c` of a message as a piece that fills DATA (R80). -/
def chunkPiece (b : List Byte) (c : Nat) : Piece := ⟨(b.drop (8 * c)).take 8, 0⟩

/-- The tail of a message as a piece with nothing in the unused lanes, when there is a tail (R80). -/
def tailPieces (b : List Byte) : List Piece := if b.length % 8 = 0 then [] else [⟨tailOf b, 0⟩]

/-- The pieces of the pseudo-instruction HASH: the complete chunks in order, then the tail (R80). -/
def hashPieces (b : List Byte) : List Piece := (List.range (b.length / 8)).map (chunkPiece b) ++ tailPieces b

theorem chunkPiece_length {b : List Byte} {c : Nat} (hc : c < b.length / 8) : (chunkPiece b c).bytes.length = 8 := by
  rw [chunkPiece, List.length_take, List.length_drop]
  omega

theorem hashPieces_legal (b : List Byte) : piecesLegal (hashPieces b) = true := by
  apply List.all_eq_true.mpr
  intro p hp
  rw [Bool.not_eq_true', badByteCount_eq_false]
  rcases List.mem_append.mp hp with hchunk | htail
  · obtain ⟨c, hc, rfl⟩ := List.mem_map.mp hchunk
    rw [chunkPiece_length (List.mem_range.mp hc)]
    decide
  · unfold tailPieces at htail
    split at htail
    · cases htail
    · rw [List.mem_singleton.mp htail, tailOf_length]
      omega

/-! The pieces make the message. -/

/-- The first `k` chunks are the first `8 k` bytes (R9). -/
theorem messageOf_chunkPieces (b : List Byte) (k : Nat) :
    messageOf ((List.range k).map (chunkPiece b)) = b.take (8 * k) := by
  rw [messageOf, List.flatMap_map]
  induction k with
  | zero => rfl
  | succ k ih =>
    rw [List.range_succ, List.flatMap_append, ih, List.flatMap_singleton, chunkPiece, Nat.mul_succ, List.take_add]

theorem messageOf_tailPieces (b : List Byte) : messageOf (tailPieces b) = tailOf b := by
  unfold tailPieces
  split
  · rename_i noTail
    rw [← tailOf_length, List.length_eq_zero_iff] at noTail
    rw [noTail, messageOf_nil]
  · rw [messageOf_cons, messageOf_nil, List.append_nil]

theorem messageOf_append (ps qs : List Piece) : messageOf (ps ++ qs) = messageOf ps ++ messageOf qs :=
  List.flatMap_append

theorem messageOf_hashPieces (b : List Byte) : messageOf (hashPieces b) = b := by
  rw [hashPieces, messageOf_append, messageOf_chunkPieces, messageOf_tailPieces, tailOf, List.take_append_drop]

/-! The pieces are the PUSHes of HASH. -/

/-- With nothing above its bytes a piece is their little-endian word (R51). -/
theorem pieceData_above_zero (bs : List Byte) : pieceData ⟨bs, 0⟩ = le64 bs := by
  simp only [pieceData, BitVec.ofNat_eq_ofNat, BitVec.zero_shiftLeft, BitVec.or_zero]

theorem pushPiece_chunkPiece {b : List Byte} {c : Nat} (hc : c < b.length / 8) :
    pushPiece (chunkPiece b c) = pushSeq 8 (chunkAt b c) := by
  rw [pushPiece, chunkPiece_length hc, chunkPiece, pieceData_above_zero, chunkAt]

theorem flatMap_pushPiece_chunkPieces (b : List Byte) :
    ((List.range (b.length / 8)).map (chunkPiece b)).flatMap pushPiece = pushChunks b := by
  rw [List.flatMap_map, pushChunks]
  exact List.flatMap_congr fun c hc => pushPiece_chunkPiece (List.mem_range.mp hc)

theorem flatMap_pushPiece_tailPieces (b : List Byte) : (tailPieces b).flatMap pushPiece = pushTail b := by
  rw [tailPieces, pushTail]
  split
  · rfl
  · rw [List.flatMap_singleton, pushPiece, tailOf_length, pieceData_above_zero]

theorem flatMap_pushPiece_hashPieces (b : List Byte) : (hashPieces b).flatMap pushPiece = pushChunks b ++ pushTail b := by
  rw [hashPieces, List.flatMap_append, flatMap_pushPiece_chunkPieces, flatMap_pushPiece_tailPieces]

/-- HASH is the stream of its pieces, then the read of RESULT (R80, R126). -/
theorem hashSeq_eq (seed : Word) (b : List Byte) : hashSeq seed b = streamSeq seed (hashPieces b) ++ [rd .result] := by
  simp only [hashSeq, streamSeq, messageOf_hashPieces, flatMap_pushPiece_hashPieces, List.append_assoc,
    List.singleton_append]

/-- Settles O58: the stream of HASH's pieces publishes the hash, and the last access reads it. -/
theorem hashPseudoInstructionReturnsTheHash : Obligations.HashPseudoInstructionReturnsTheHash := by
  intro seed b s arrived rest hlen order hl hp hi
  cases order
  rw [hashSeq_eq, List.append_assoc] at hi
  obtain ⟨t, mid, hrun⟩ :=
    runSteps_streamSeq hl hp (hashPieces_legal b) (by rwa [messageOf_hashPieces]) hi
  rw [messageOf_hashPieces] at mid hrun
  have hread : step (publish (Machine.hash64 b seed) { t with inbox := [rd .result] ++ rest }) =
      .next (reply (Machine.hash64 b seed) (publish (Machine.hash64 b seed) { t with inbox := rest })) :=
    step_rd (r := .result) mid.resetLine rfl
  refine ⟨reply (Machine.hash64 b seed) (publish (Machine.hash64 b seed) { t with inbox := rest }), ?_, rfl, ?_, mid.err,
    mid.errcode, rfl⟩
  · rw [hashSeq_eq, List.length_append, runSteps_add hrun]
    exact runSteps_succ_of_next hread
  · rw [reply_replies, publish_replies, mid.replies]

end Sys2Proof.Machine

/-! SUPPORT. The mix unit: what each of its functions computes, their inverses, and `hash64` over a message given as its
chunks and its tail (spec/40_mix_datapath.md R100 to R111). -/

namespace Sys2Proof.Machine

open Sys2Proof

/-! ### The two operations -/

theorem mulm_toNat (x : Word) : (mulm x).toNat = x.toNat * 0xc6a4a7935bd1e995 % 2 ^ 64 := by
  rw [mulm, BitVec.toNat_mul, multiplier_toNat]

@[simp] theorem mulm_zero : mulm 0 = 0 := BitVec.zero_mul

theorem getLsbD_xs (x : Word) (i : Nat) : (xs x).getLsbD i = (x.getLsbD i ^^ x.getLsbD (i + 47)) := by
  rw [xs, BitVec.getLsbD_xor, BitVec.getLsbD_ushiftRight, shiftAmount, Nat.add_comm]

/-- Nothing of a value below 2^47 is left after the shift (R101). -/
theorem xs_of_lt {x : Word} (hx : x.toNat < 2 ^ 47) : xs x = x := by
  have shifted : x >>> shiftAmount = 0 := by
    apply BitVec.eq_of_toNat_eq
    rw [BitVec.toNat_ushiftRight, shiftAmount, Nat.shiftRight_eq_div_pow, Nat.div_eq_of_lt hx]
    rfl
  rw [xs, shifted]
  exact BitVec.xor_zero

@[simp] theorem xs_zero : xs 0 = 0 := xs_of_lt (by decide)

/-- Settles O8. -/
theorem mulmAndXsFollowTheirRules : Obligations.MulmAndXsFollowTheirRules :=
  ⟨mulm_toNat, getLsbD_xs, fun _ => xs_of_lt, mulm_zero, by decide⟩

/-! ### Their inverses -/

theorem mulm_mul_inverse (x : Word) : mulm x * 0x5f7a0ea7e59b19bd = x := by
  rw [mulm, BitVec.mul_assoc, multiplier_mul_inverse]
  exact BitVec.mul_one x

theorem mulm_of_mul_inverse (y : Word) : mulm (y * 0x5f7a0ea7e59b19bd) = y := by
  rw [mulm, BitVec.mul_assoc, BitVec.mul_comm _ multiplier, multiplier_mul_inverse]
  exact BitVec.mul_one y

theorem mulm_bijective : Function.Bijective mulm :=
  Function.bijective_iff_has_inverse.mpr ⟨(· * 0x5f7a0ea7e59b19bd), mulm_mul_inverse, mulm_of_mul_inverse⟩

/-- Bit `i + 47` cancels, and the bit that enters from `i + 94` is above the word (R111). -/
theorem xs_involutive : Function.Involutive xs := by
  intro x
  apply BitVec.eq_of_getLsbD_eq
  intro i _
  have above : x.getLsbD (i + 47 + 47) = false := BitVec.getLsbD_of_ge x _ (by omega)
  rw [getLsbD_xs, getLsbD_xs, getLsbD_xs, above, Bool.xor_false, Bool.xor_assoc, Bool.xor_self, Bool.xor_false]

theorem mixk_bijective : Function.Bijective mixk :=
  mulm_bijective.comp (xs_involutive.bijective.comp mulm_bijective)

theorem fin_bijective : Function.Bijective fin :=
  xs_involutive.bijective.comp (mulm_bijective.comp xs_involutive.bijective)

/-- Settles O10: the compositions of bijections are bijections. -/
theorem mixFunctionsAreBijections : Obligations.MixFunctionsAreBijections :=
  ⟨mulm_bijective, xs_involutive.bijective, mixk_bijective, fin_bijective, mulm_mul_inverse, xs_involutive⟩

/-! ### Their compositions -/

theorem mixk_zero : mixk 0 = 0 := by rw [mixk, mulm_zero, xs_zero, mulm_zero]

theorem fin_zero : fin 0 = 0 := by rw [fin, xs_zero, mulm_zero, xs_zero]

/-- A chunk of zero bytes still multiplies the accumulator (R103). -/
theorem chunkStep_zero (h : Word) : chunkStep h 0 = mulm h := by
  rw [chunkStep, mixk_zero]
  exact congrArg mulm BitVec.xor_zero

/-- The seed alone starts a message of length 0 (R106). -/
theorem init_zero (seed : Word) : init seed 0 = seed := by
  rw [init, mulm_zero]
  exact BitVec.xor_zero

/-- Settles O9: the compositions are the definitions; the corner cases rest on `mulm_zero` and `xs_zero`. -/
theorem mixFunctionsFollowTheirRules : Obligations.MixFunctionsFollowTheirRules :=
  ⟨fun _ => rfl, fun _ _ => rfl, fun _ => rfl, fun _ _ => rfl, mixk_zero, by decide, by decide, by decide, by decide,
    (chunkStep_zero 0).trans mulm_zero, chunkStep_zero, by decide, by decide, fin_zero, by decide, by decide, by decide,
    init_zero, by decide⟩

/-! ### The tail -/

/-- Settles O11. -/
theorem tailFoldIsOneXorThenOneMultiply : Obligations.TailFoldIsOneXorThenOneMultiply :=
  fun h u _ => ⟨tailStep_eq h u, fun _ hperm => foldl_tailXor_of_perm hperm h⟩

/-- The multiply happens with no tail byte too (R104, C1). -/
theorem tailStep_nil (h : Word) : tailStep h [] = mulm h := by
  rw [tailStep_eq, le64_nil]
  exact congrArg mulm BitVec.xor_zero

/-! ### The hash of chunks and a tail -/

theorem hash64_nil (seed : Word) : Machine.hash64 [] seed = fin (mulm seed) :=
  calc Machine.hash64 [] seed
    _ = fin (tailStep (init seed 0) []) := rfl
    _ = fin (mulm seed) := by rw [init_zero, tailStep_nil]

/-- Settles O12. -/
theorem emptyMessageHash : Obligations.EmptyMessageHash :=
  ⟨fun seed => ⟨init_zero seed, tailStep_nil seed, hash64_nil seed⟩, by decide, by decide⟩

section
variable {m u : List Byte} (hm : m.length % 8 = 0)
include hm

theorem tailOf_append_of_lt (hu : u.length < 8) : tailOf (m ++ u) = u := by
  rw [tailOf, List.length_append, show 8 * ((m.length + u.length) / 8) = m.length by omega, List.drop_left]

/-- Fewer than eight bytes after complete chunks make no chunk (R9). -/
theorem chunkFold_append_of_lt (hu : u.length < 8) (h : Word) : chunkFold (m ++ u) h = chunkFold m h := by
  rw [← foldl_chunkAt_append m u h, chunkFold, List.length_append,
    show (m.length + u.length) / 8 = m.length / 8 by omega]

/-- Eight bytes after complete chunks are the next chunk (R9, R107). -/
theorem chunkFold_append_of_eq (hu : u.length = 8) (h : Word) :
    chunkFold (m ++ u) h = chunkStep (chunkFold m h) (le64 u) := by
  have last : chunkAt (m ++ u) (m.length / 8) = le64 u := by
    rw [chunkAt, show 8 * (m.length / 8) = m.length by omega, List.drop_left, List.take_of_length_le (by omega)]
  rw [chunkFold, List.length_append, show (m.length + u.length) / 8 = m.length / 8 + 1 by omega, List.range_succ,
    List.foldl_append, foldl_chunkAt_append, List.foldl_cons, List.foldl_nil, last]

end

theorem length_flatten_chunks {cs : List (List Byte)} (hcs : ∀ c ∈ cs, c.length = 8) :
    cs.flatten.length = 8 * cs.length := by
  rw [List.length_flatten, List.map_congr_left hcs, List.map_const', List.sum_replicate_nat, Nat.mul_comm]

/-- The loop of R107 over complete chunks, from the last chunk back. -/
theorem chunkFold_flatten (cs : List (List Byte)) (h : Word) (hcs : ∀ c ∈ cs, c.length = 8) :
    chunkFold cs.flatten h = cs.foldl (fun a c => chunkStep a (le64 c)) h := by
  induction cs using List.reverseRecOn with
  | nil => rfl
  | append_singleton cs c ih =>
    obtain ⟨before, last⟩ := List.forall_mem_append.mp hcs
    have complete : cs.flatten.length % 8 = 0 := by
      rw [length_flatten_chunks before]
      omega
    rw [List.flatten_concat, chunkFold_append_of_eq complete (last c List.mem_cons_self), ih before,
      List.foldl_concat]

/-- Settles O13: the chunks of `cs.flatten ++ u` are those of `cs`, by `chunkFold_flatten`, and its tail is `u`. -/
theorem hashFoldsChunksThenTail : Obligations.HashFoldsChunksThenTail := by
  refine ⟨fun cs u seed hcs hu => ?_, by decide, by decide⟩
  have hlen := length_flatten_chunks hcs
  have complete : cs.flatten.length % 8 = 0 := by omega
  rw [hash64, tailOf_append_of_lt complete hu, chunkFold_append_of_lt complete hu, chunkFold_flatten cs _ hcs,
    List.length_append, hlen]

end Sys2Proof.Machine

/-! SUPPORT. The stream commands one by one: the phase table, NOP, START, ABSORB, FINISH, and the whole stream of R126
(spec/41_stream_commands.md R120 to R127). -/

namespace Sys2Proof.Machine

open Sys2Proof

/-! ### ABSORB -/

/-- The counts that are BAD_NBYTES (R161). -/
theorem badByteCount_eq_true {n : Nat} : badByteCount n = true ↔ n = 0 ∨ 8 < n := by
  simp [badByteCount]

/-- The counts that are OVERRUN (R161). -/
theorem overruns_eq_true {n : Nat} {s : State} : overruns n s = true ↔ s.latlen.toNat < s.cnt.toNat + n := by
  rw [← Bool.not_eq_false, overruns_eq_false, Nat.not_le]

section
variable {m : List Byte} (h : Word)

theorem chunkFold_of_length_lt (hm : m.length < 8) : chunkFold m h = h :=
  chunkFold_append_of_lt (m := []) rfl hm h

theorem tailOf_of_length_lt (hm : m.length < 8) : tailOf m = m :=
  tailOf_append_of_lt (m := []) rfl hm

/-- From 8 to 15 bytes are one complete chunk and a tail (R9). -/
theorem chunkFold_of_one_chunk (hle : 8 ≤ m.length) (hlt : m.length < 16) : chunkFold m h = chunkStep h (le64 (m.take 8)) := by
  have first : (m.take 8).length = 8 := List.length_take_of_le hle
  calc chunkFold m h
    _ = chunkFold (m.take 8 ++ m.drop 8) h := by rw [List.take_append_drop]
    _ = chunkFold (m.take 8) h := chunkFold_append_of_lt (by rw [first]) (by rw [List.length_drop]; omega) h
    _ = chunkStep h (le64 (m.take 8)) := chunkFold_append_of_eq (m := []) rfl first h

theorem tailOf_of_one_chunk (hle : 8 ≤ m.length) (hlt : m.length < 16) : tailOf m = m.drop 8 := by
  rw [tailOf, show m.length / 8 = 1 by omega]

end

/-- A word whose lanes from `n` up are 0 is the little-endian word of its low `n` lanes (R32). -/
theorem le64_lanes_of_zero_above {v : Word} {n : Nat} (zero : ∀ j < 8, n ≤ j → byteLane v j = 0) :
    le64 (lanes v n) = v := by
  apply eq_of_byteLane_eq
  intro j hj
  rw [byteLane_le64 _ hj]
  rcases Nat.lt_or_ge j n with h | h
  · exact lanes_getD v h
  · rw [List.getD_eq_default _ _ (by rwa [lanes_length]), zero j hj h]

/-- An ABSORB starts as if the bytes in BUF were a message absorbed from the accumulator (R35 item 2). -/
theorem chunkAcc_holds {s : State} (free : (chunkAcc s).FreeLanesZero) :
    (chunkAcc s).Holds s.h (lanes s.buf s.bufcnt.toNat) := by
  have hlt : (lanes s.buf s.bufcnt.toNat).length < 8 := by
    rw [lanes_length]
    exact s.bufcnt.isLt
  constructor
  · exact (chunkFold_of_length_lt s.h hlt).symm
  · rw [tailOf_of_length_lt hlt]
    exact (le64_lanes_of_zero_above free).symm
  · rw [Nat.mod_eq_of_lt hlt, lanes_length]
    rfl

/-- Settles O17: BUF and the lanes of DATA are one message, and the loop holds its one chunk, if complete, and its tail. -/
theorem absorbAppendsLanesAndMixesFullChunk : Obligations.AbsorbAppendsLanesAndMixesFullChunk := by
  intro n s hp hpos hle fits free
  obtain ⟨hh, hbuf, hcnt⟩ := absorbBytes_holds (chunkAcc_holds free) (lanes s.datar n)
  have hlen : (lanes s.buf s.bufcnt.toNat ++ lanes s.datar n).length = s.bufcnt.toNat + n := by simp
  have hbufcnt := s.bufcnt.isLt
  rw [exec_absorb_of_fits hp (badByteCount_eq_false.mpr ⟨hpos, hle⟩) fits, storeAbsorbed, hh, hbuf, hcnt, hlen]
  split
  next h8 =>
    rw [← hlen] at h8
    rw [chunkFold_of_length_lt s.h h8, tailOf_of_length_lt h8, ← hlen, Nat.mod_eq_of_lt h8]
  next h8 =>
    rw [chunkFold_of_one_chunk s.h (by omega) (by omega), tailOf_of_one_chunk (by omega) (by omega),
      show (s.bufcnt.toNat + n) % 8 = s.bufcnt.toNat + n - 8 by omega]

/-- Settles O20: it is O17 with no byte in BUF, where the eight lanes of DATA are the chunk. -/
theorem absorbEightAtBoundaryMixesData : Obligations.AbsorbEightAtBoundaryMixesData := by
  intro s hp hbufcnt hbuf fits
  have absorbed := absorbAppendsLanesAndMixesFullChunk 8 s hp (by decide) (by decide) fits
    fun j _ _ => by rw [hbuf, byteLane_zero]
  have empty : lanes s.buf 0 = [] := rfl
  have zero : s.bufcnt.toNat = 0 := by rw [hbufcnt]; rfl
  rw [zero, empty, List.nil_append, if_neg (by decide), List.take_of_length_le (by simp), le64_lanes,
    List.drop_of_length_le (by simp), le64_nil, ← hbuf] at absorbed
  rw [absorbed, hbufcnt]
  rfl

/-- The loop mixes nothing before the chunk is full (R123). -/
theorem absorbBytes_h_of_lt {a : ChunkAcc} {bs : List Byte} (hlt : a.cnt + bs.length < 8) : (absorbBytes a bs).h = a.h := by
  induction bs generalizing a with
  | nil => rfl
  | cons b bs ih =>
    rw [List.length_cons] at hlt
    have turn := absorbByte_of_lt b (a := a) (by omega)
    have later := ih (a := absorbByte a b) (by rw [turn]; show a.cnt + 1 + bs.length < 8; omega)
    calc (absorbBytes a (b :: bs)).h
      _ = (absorbByte a b).h := later
      _ = a.h := by rw [turn]

/-- Settles O18. -/
theorem absorbInBoundsCompletes : Obligations.AbsorbInBoundsCompletes := by
  intro n s hp hpos hle fits
  refine ⟨_, exec_absorb_of_fits hp (badByteCount_eq_false.mpr ⟨hpos, hle⟩) fits, rfl,
    storeAbsorbed_cnt_toNat fits _, ?_, fun h8 => absorbBytes_h_of_lt (by rwa [lanes_length])⟩
  have counted := storeAbsorbed_bufcnt_toNat (lanes s.datar n) s
  rwa [lanes_length] at counted

/-- Settles O19: an error is recorded with its code of R161. -/
theorem absorbErrorsInPriorityOrder : Obligations.AbsorbErrorsInPriorityOrder := by
  intro n s
  refine ⟨fun hp => ?_, fun hp bad => ?_, fun hp hpos hle exceeds => ?_⟩
  · exact exec_absorb_of_ne_absorb hp
  · exact exec_absorb_of_badByteCount hp (badByteCount_eq_true.mpr bad)
  · exact exec_absorb_of_overruns hp (badByteCount_eq_false.mpr ⟨hpos, hle⟩) (overruns_eq_true.mpr exceeds)

/-! ### NOP, START and FINISH -/

theorem exec_nop (s : State) : exec .nop s = .next s := rfl

/-- Settles O15: of the commands' words only that of NOP has OP 0. -/
theorem nopChangesNothing : Obligations.NopChangesNothing := by
  intro s
  refine ⟨exec_nop s, rfl, fun w (hop : opField w = 0) hw => ?_⟩
  apply runCommand_of_not_command
  intro i hd
  obtain ⟨hwf, rfl⟩ := decode_eq_instr.mp hd
  cases i with
  | nop => exact hw rfl
  | start | finish | abort => exact absurd hop (by decide)
  | absorb n =>
    obtain ⟨op, -⟩ := fields_encode_absorb (of_decide_eq_true hwf)
    rw [op] at hop
    exact absurd hop (by decide)

theorem exec_start_of_absorb {s : State} (hp : s.phase = .absorb) : exec .start s = .next (raiseCmdError .sequence s) := by
  simp only [exec, execStart, if_pos hp]

/-- Settles O16. -/
theorem startBeginsHashOrRecordsSequence : Obligations.StartBeginsHashOrRecordsSequence :=
  fun _ => ⟨exec_start_of_ne_absorb, exec_start_of_absorb⟩

theorem exec_finish_of_ne_absorb {s : State} (hp : s.phase ≠ .absorb) :
    exec .finish s = .next (raiseCmdError .sequence s) := by
  simp only [exec, execFinish, if_pos hp]

theorem exec_finish_of_incomplete {s : State} (hp : s.phase = .absorb) (hc : s.cnt ≠ s.latlen) :
    exec .finish s = .next (raiseCmdError .underrun s) := by
  simp [exec, execFinish, hp, hc]

/-- Settles O23. -/
theorem finishPublishesOrRecordsError : Obligations.FinishPublishesOrRecordsError :=
  fun _ => ⟨exec_finish_of_complete, exec_finish_of_ne_absorb, exec_finish_of_incomplete⟩

/-! ### The phase table -/

section
variable {p : Phase}

theorem accepts_start : accepts p .start = true ↔ p ≠ .absorb := by simp [accepts]

theorem accepts_absorb {n : Nat} : accepts p (.absorb n) = true ↔ p = .absorb := by simp [accepts]

theorem accepts_finish : accepts p .finish = true ↔ p = .absorb := by simp [accepts]

theorem ne_absorb_iff : p ≠ .absorb ↔ p = .idle ∨ p = .done := by
  cases p <;> decide

end

/-- A command that the phase does not accept is a SEQUENCE error and nothing else (R127). -/
theorem exec_of_not_accepts {i : Instr} {s : State} (h : accepts s.phase i = false) :
    exec i s = .next (raiseCmdError .sequence s) := by
  rw [← Bool.not_eq_true] at h
  cases i with
  | nop | abort => exact absurd rfl h
  | start => exact exec_start_of_absorb (not_not.mp (mt accepts_start.mpr h))
  | absorb n => exact exec_absorb_of_ne_absorb (mt accepts_absorb.mpr h)
  | finish => exact exec_finish_of_ne_absorb (mt accepts_finish.mpr h)

/-- An ABSORB in phase ABSORB stays there, with an error or without (R123, R127). -/
theorem exec_absorb_keeps_phase (n : Nat) (s : State) : ∃ t, exec (.absorb n) s = .next t ∧ t.phase = s.phase := by
  rcases absorb_refused_or_fits n s with ⟨e, refused⟩ | ⟨hp, hn, fits⟩
  · exact ⟨_, refused s.datar, rfl⟩
  · exact ⟨_, exec_absorb_of_fits hp hn fits, rfl⟩

/-- The phase after an accepted FINISH: DONE, or ABSORB still when bytes are missing (R124, R127). -/
theorem exec_finish_phase {s : State} (hp : s.phase = .absorb) :
    ∃ t, exec .finish s = .next t ∧ t.phase = if s.cnt = s.latlen then .done else .absorb := by
  split
  next complete => exact ⟨_, exec_finish_of_complete hp complete, rfl⟩
  next incomplete => exact ⟨_, exec_finish_of_incomplete hp incomplete, hp⟩

theorem runCommand_of_instr {w : Word} {i : Instr} (hd : decode w = .instr i) (s : State) : runCommand w s = exec i s := by
  simp only [runCommand, hd]

theorem runCommand_of_illegal {w : Word} {r : IllegalReason} (hd : decode w = .illegal r) (s : State) :
    runCommand w s = .next (raiseCmdError .illegalCmd s) := by
  simp only [runCommand, hd]

/-- Settles O29, command by command. -/
theorem phaseTable : Obligations.PhaseTable := by
  refine ⟨fun p => ⟨rfl, rfl⟩, fun p => ⟨accepts_start.trans ne_absorb_iff, accepts_finish, fun n => accepts_absorb⟩,
    fun i s => ⟨exec_of_not_accepts, fun accepted => ?_, fun w r hd => runCommand_of_illegal hd s⟩⟩
  cases i with
  | nop => exact ⟨s, exec_nop s, rfl⟩
  | start => exact ⟨_, exec_start_of_ne_absorb (accepts_start.mp accepted), rfl⟩
  | absorb n =>
    obtain ⟨t, ht, hphase⟩ := exec_absorb_keeps_phase n s
    exact ⟨t, ht, hphase.trans (accepts_absorb.mp accepted)⟩
  | finish => exact exec_finish_phase (accepts_finish.mp accepted)
  | abort => exact ⟨_, rfl, rfl⟩

/-! ### The dispatch of a CMD write -/

/-- Settles O28: each meaning makes the phase check of the table itself, as `exec_of_not_accepts` says. -/
theorem dispatchChecksDecodeThenPhase : Obligations.DispatchChecksDecodeThenPhase := by
  refine fun w s => ⟨?_, hostWrite_completes .cmd w s⟩
  cases hd : decode w with
  | illegal r => exact runCommand_of_illegal hd s
  | instr i =>
    show runCommand w s = if accepts s.phase i then exec i s else .next (raiseCmdError .sequence s)
    rw [runCommand_of_instr hd]
    split
    next => rfl
    next refused => exact exec_of_not_accepts (Bool.eq_false_iff.mpr refused)

/-- Settles O47. -/
theorem stepRunsTheDecodedCommand : Obligations.StepRunsTheDecodedCommand :=
  fun _ _ _ _ hl hi hd => (step_wr (r := .cmd) hl hi).trans (runCommand_of_instr hd _)

/-- The placed word is the command's own: it loses no bit on the way through its 64-bit number. -/
theorem withFetchWord_encode (i : Instr) (s : State) :
    s.withFetchWord 64 (encode i).toNat = { s with inbox := issue i :: s.inbox, resetLine := false } := by
  have word : BitVec.ofNat 64 ((encode i).toNat % 2 ^ 64) = encode i := by
    rw [Nat.mod_eq_of_lt (encode i).isLt, BitVec.ofNat_toNat, BitVec.setWidth_eq]
  rw [State.withFetchWord, issueWord, word]
  rfl

/-- Settles O50: what is placed is the issue of the command, which `step_issue` performs. -/
theorem placedCommandRunsNext : Obligations.PlacedCommandRunsNext := by
  intro i s hwf
  rw [withFetchWord_encode]
  exact step_issue (s := { s with inbox := issue i :: s.inbox, resetLine := false }) hwf rfl rfl

/-! ### The whole stream -/

/-- Settles O56: `MidStream` holds up to FINISH, which publishes the hash of the pieces' message. -/
theorem streamedPiecesGiveTheHash : Obligations.StreamedPiecesGiveTheHash := by
  intro seed ps s arrived rest legal hlen order hl hp hi
  cases order
  obtain ⟨t, mid, hrun⟩ := runSteps_streamSeq hl hp legal hlen hi
  exact ⟨_, hrun, rfl, rfl, mid.err, mid.errcode, rfl, mid.replies⟩

end Sys2Proof.Machine

/-! SUPPORT. The register map, offset by offset: what a read answers and what a write does (spec/42_register_access.md
R140, R141). -/

namespace Sys2Proof.Machine

open Sys2Proof

section
variable {s : State} {rest : List HostEvent} {off : Nat} (hl : s.resetLine = false)
include hl

/-- `step_rd` with the offset as the event carries it (R141). -/
theorem step_read_at (hi : s.inbox = .read 64 (.offset off) :: rest) (r : Reg) (hoff : off = r.offset) :
    step s = .next { s with inbox := rest, replies := s.replies ++ [readReg r s] } := by
  subst hoff
  exact step_rd hl hi

/-- `step_wr` with the offset as the event carries it (R140). -/
theorem step_write_at {v : Word} (hi : s.inbox = .write 64 (.offset off) v :: rest) (r : Reg) (hoff : off = r.offset) :
    step s = hostWrite r v { s with inbox := rest } := by
  subst hoff
  exact step_wr hl hi

end

/-- The ERR bit of STATUS is the number 0 or 256 (R23). -/
theorem shiftLeft_setWidth_ofBool (b : Bool) :
    (BitVec.ofBool b).setWidth 64 <<< 8 = (((if b then 1 else 0) <<< 8 : Nat) : Word) := by
  cases b <;> rfl

/-- Settles O39: STATUS alone is assembled at the read, every other register answers a stored element or 0. -/
theorem readsReturnTheRegisters : Obligations.ReadsReturnTheRegisters := by
  intro s rest off hl hi
  have answers := step_read_at hl hi
  refine ⟨answers .cmd, fun hoff => ?_, answers .seed, answers .len, answers .data, answers .result, answers .hacc,
    answers .count⟩
  rw [answers .status hoff, readReg, statusWord, shiftLeft_setWidth_ofBool]
  cases s.phase <;> rfl

/-- Settles O40: a write to CMD is the command's own run, and `storeReg` says what each other register keeps. -/
theorem writesRunStoreOrAreIgnored : Obligations.WritesRunStoreOrAreIgnored := by
  intro s rest off v hl hi
  have performs := step_write_at hl hi
  refine ⟨performs .cmd, performs .seed, performs .len, performs .data, ?ignored⟩
  case ignored =>
    rintro (status | result | hacc | count)
    · exact performs .status status
    · exact performs .result result
    · exact performs .hacc hacc
    · exact performs .count count

end Sys2Proof.Machine

/-! SUPPORT. The command errors: what raising one records, which one a command word reports, and what clears it again
(spec/60_exceptions.md R160 to R164). -/

namespace Sys2Proof.Machine

open Sys2Proof

/-! ### Raising an error -/

/-- Settles O25. -/
theorem raiseSetsErrAndFirstCode : Obligations.RaiseSetsErrAndFirstCode := by
  intro e s
  cases e <;> rfl

/-- A recorded code is never recorded over (R163). -/
theorem recordCode_of_ne_zero {c : BitVec 4} (hc : c ≠ 0) (e : CmdError) : recordCode c e = c :=
  if_neg hc

/-- No code above 5 is recorded (R161). -/
theorem recordCode_le_five {c : BitVec 4} (hc : c ≤ 5) (e : CmdError) : recordCode c e ≤ 5 := by
  unfold recordCode
  split
  · cases e <;> decide
  · exact hc

/-- Settles O26: after the first error ERRCODE is not 0. -/
theorem laterErrorKeepsFirstCode : Obligations.LaterErrorKeepsFirstCode := by
  intro e f s
  have kept : recordCode (recordCode s.errcode e) f = recordCode s.errcode e :=
    recordCode_of_ne_zero (recordCode_ne_zero _ _) f
  simp only [raiseCmdError, kept]

/-! ### The error a command word reports -/

section
variable {w : Word} {s : State}

theorem firstError_of_start (hd : decode w = .instr .start) :
    firstError w s = if s.phase = .absorb then some .sequence else none := by
  simp only [firstError, hd]

theorem firstError_of_absorb {n : Nat} (hd : decode w = .instr (.absorb n)) :
    firstError w s = if s.phase ≠ .absorb then some .sequence else if n = 0 ∨ 8 < n then some .badNbytes
      else if s.latlen.toNat < s.cnt.toNat + n then some .overrun else none := by
  simp only [firstError, hd]

theorem firstError_of_finish (hd : decode w = .instr .finish) :
    firstError w s = if s.phase ≠ .absorb then some .sequence else if s.cnt ≠ s.latlen then some .underrun else none := by
  simp only [firstError, hd]

end

/-- The state a command leaves that reports no error (R121 to R125). -/
def performed (s : State) : Instr → State
  | .nop => s
  | .start => beginHash s
  | .absorb n => storeAbsorbed (absorbBytes (chunkAcc s) (lanes s.datar n)) n s
  | .finish => publish (fin (mulm (s.h ^^^ s.buf))) s
  | .abort => clearCmdError (clearHash s)

/-- A command word raises the first error that applies, or it is a command and is performed (R162). -/
theorem runCommand_reports_or_performs (w : Word) (s : State) :
    (∃ e, firstError w s = some e ∧ runCommand w s = .next (raiseCmdError e s)) ∨
    (∃ i, decode w = .instr i ∧ firstError w s = none ∧ runCommand w s = .next (performed s i)) := by
  cases hd : decode w with
  | illegal r => exact .inl ⟨.illegalCmd, by simp only [firstError, hd], runCommand_of_illegal hd s⟩
  | instr i =>
    rw [runCommand_of_instr hd]
    cases i with
    | nop | abort => exact .inr ⟨_, rfl, by simp only [firstError, hd], rfl⟩
    | start =>
      rw [firstError_of_start hd]
      by_cases hp : s.phase = .absorb
      · exact .inl ⟨_, if_pos hp, exec_start_of_absorb hp⟩
      · exact .inr ⟨_, rfl, if_neg hp, exec_start_of_ne_absorb hp⟩
    | absorb n =>
      rw [firstError_of_absorb hd]
      by_cases hp : s.phase = .absorb
      · rw [if_neg (not_not.mpr hp)]
        cases bad : badByteCount n with
        | true => exact .inl ⟨_, if_pos (badByteCount_eq_true.mp bad), exec_absorb_of_badByteCount hp bad⟩
        | false =>
          rw [if_neg (by rw [← badByteCount_eq_true, bad]; decide)]
          by_cases exceeds : s.latlen.toNat < s.cnt.toNat + n
          · exact .inl ⟨_, if_pos exceeds, exec_absorb_of_overruns hp bad (overruns_eq_true.mpr exceeds)⟩
          · exact .inr ⟨_, rfl, if_neg exceeds, exec_absorb_of_fits hp bad (Nat.not_lt.mp exceeds)⟩
      · exact .inl ⟨_, if_pos hp, exec_absorb_of_ne_absorb hp⟩
    | finish =>
      rw [firstError_of_finish hd]
      by_cases hp : s.phase = .absorb
      · rw [if_neg (not_not.mpr hp)]
        by_cases all : s.cnt = s.latlen
        · exact .inr ⟨_, rfl, if_neg (not_not.mpr all), exec_finish_of_complete hp all⟩
        · exact .inl ⟨_, if_pos all, exec_finish_of_incomplete hp all⟩
      · exact .inl ⟨_, if_pos hp, exec_finish_of_ne_absorb hp⟩

section
variable {w : Word} {s : State}

theorem runCommand_of_firstError {e : CmdError} (he : firstError w s = some e) :
    runCommand w s = .next (raiseCmdError e s) := by
  rcases runCommand_reports_or_performs w s with ⟨e', he', hr⟩ | ⟨i, -, noError, -⟩
  · cases he.symm.trans he'
    exact hr
  · cases he.symm.trans noError

theorem runCommand_of_no_error (noError : firstError w s = none) :
    ∃ i, decode w = .instr i ∧ runCommand w s = .next (performed s i) := by
  rcases runCommand_reports_or_performs w s with ⟨e, he, -⟩ | ⟨i, hd, -, hr⟩
  · cases noError.symm.trans he
  · exact ⟨i, hd, hr⟩

end

/-- A successful command other than ABORT leaves the flags (R163). -/
theorem performed_keeps_flags (s : State) {i : Instr} (hi : i ≠ .abort) :
    (performed s i).err = s.err ∧ (performed s i).errcode = s.errcode := by
  cases i with
  | abort => exact absurd rfl hi
  | nop | start | absorb | finish => exact ⟨rfl, rfl⟩

/-- Settles O27. -/
theorem commandReportsFirstApplicableError : Obligations.CommandReportsFirstApplicableError := by
  refine fun w s => ⟨fun e he => runCommand_of_firstError he, fun noError => ?_⟩
  obtain ⟨i, hd, hr⟩ := runCommand_of_no_error noError
  refine ⟨_, hr, fun other => ?_, fun abort => ?_⟩
  · exact performed_keeps_flags s fun hi => other (by rw [hd, hi])
  · cases hd.symm.trans abort
    exact ⟨rfl, rfl⟩

/-! ### The flags before a command -/

/-- What a successful command does to everything but the flags does not look at them (R163). -/
theorem performed_of_flags (s : State) (e : Bool) (c : BitVec 4) (i : Instr) :
    ∃ (e' : Bool) (c' : BitVec 4),
      performed { s with err := e, errcode := c } i = { performed s i with err := e', errcode := c' } := by
  cases i with
  | abort => exact ⟨false, 0, rfl⟩
  | nop | start | absorb | finish => exact ⟨e, c, rfl⟩

/-- Settles O31: the flags have no part in which error a word reports, nor in what it does without one. -/
theorem commandsRunAsIfNoErrorWereRecorded : Obligations.CommandsRunAsIfNoErrorWereRecorded := by
  intro w s e c
  have same : firstError w { s with err := e, errcode := c } = firstError w s := rfl
  cases reported : firstError w s with
  | some error =>
    exact ⟨_, true, recordCode c error, runCommand_of_firstError reported,
      runCommand_of_firstError (same.trans reported)⟩
  | none =>
    obtain ⟨i, hd, hr⟩ := runCommand_of_no_error reported
    obtain ⟨i', hd', hr'⟩ := runCommand_of_no_error (same.trans reported)
    cases hd.symm.trans hd'
    obtain ⟨e', c', flags⟩ := performed_of_flags s e c i
    exact ⟨_, e', c', hr, by rw [hr', flags]⟩

/-! ### What a step does to the flags -/

/-- A step leaves the flags, raises an error, or is an ABORT or the release of reset, which clear them (R160, R164). -/
theorem flags_of_step {s t : State} (h : step s = .next t) :
    (t.err = s.err ∧ t.errcode = s.errcode) ∨
    (∃ e, t.err = true ∧ t.errcode = recordCode s.errcode e) ∨
    ((nextCommandIs .abort s ∨ nextReleasesReset s) ∧ t.err = false ∧ t.errcode = 0) := by
  cases stepEffect_of_step h with
  | kept same | began _ same | absorbed _ _ _ _ _ _ same | finished _ _ _ same => exact .inl ⟨same.err, same.errcode⟩
  | raised e same => exact .inr (.inl ⟨e, same.err, same.errcode⟩)
  | cleared event same => exact .inr (.inr ⟨event, same.err, same.errcode⟩)

/-- Settles O54: a step leaves a legal code, records one, or clears it. -/
theorem errcodeStaysLegal : Obligations.ErrcodeStaysLegal := by
  refine ⟨by decide, fun s t legal h => ?_⟩
  rcases flags_of_step h with ⟨-, hcode⟩ | ⟨e, -, hcode⟩ | ⟨-, -, hcode⟩
  all_goals rw [errcodeLegal, hcode]
  · exact legal
  · exact recordCode_le_five legal e
  · decide

/-- A step whose oldest event is an admitted write of a command to CMD executes that command (R120). -/
theorem exec_of_nextCommandIs {s t : State} {i : Instr} (cmd : nextCommandIs i s) (h : step s = .next t) :
    exec i { s with inbox := s.inbox.tail } = .next t := by
  obtain ⟨target, w, hi, hw, hd⟩ := cmd
  rcases step_cases h with ⟨hnil, -⟩ | ⟨e, rest, hcons, event⟩
  · rw [hnil] at hi
    cases hi
  · rw [hcons] at hi
    cases hi
    rw [hcons, List.tail_cons]
    rcases event with ⟨a, he, -⟩ | ⟨_, r, he, -⟩ | ⟨_, r, v, he, -, hr, hne, -⟩ | ⟨_, v, he, -, -, hrun⟩
    all_goals cases he
    · cases r with
      | cmd => exact absurd rfl hne
      | status | seed | len | data | result | hacc | count => cases hw.symm.trans hr
    · rwa [runCommand_of_instr hd] at hrun

theorem flags_of_nextCommandIs_abort {s t : State} (cmd : nextCommandIs .abort s) (h : step s = .next t) :
    t.err = false ∧ t.errcode = 0 := by
  cases exec_of_nextCommandIs cmd h
  exact ⟨rfl, rfl⟩

theorem flags_of_nextReleasesReset {s t : State} (release : nextReleasesReset s) (h : step s = .next t) :
    t.err = false ∧ t.errcode = 0 := by
  obtain ⟨hi, hl⟩ := release
  obtain ⟨rest, hcons⟩ := List.head?_eq_some_iff.mp hi
  rw [step_of_inbox_drive hcons, driveReset_release (s := { s with inbox := rest }) hl] at h
  cases h
  exact ⟨rfl, rfl⟩

/-- Settles O32: of the effects of a step on the flags, only the clearing one changes a recorded error. -/
theorem errorClearedOnlyByAbortOrReset : Obligations.ErrorClearedOnlyByAbortOrReset := by
  refine fun s t herr hcode h => ⟨?clears, fun other => ?keeps⟩
  case clears =>
    rintro (abort | release)
    · exact flags_of_nextCommandIs_abort abort h
    · exact flags_of_nextReleasesReset release h
  case keeps =>
    rcases flags_of_step h with ⟨kept, keptCode⟩ | ⟨e, raised, recorded⟩ | ⟨event, -⟩
    · exact ⟨kept.trans herr, keptCode⟩
    · exact ⟨raised, recorded.trans (recordCode_of_ne_zero hcode e)⟩
    · exact absurd event other

end Sys2Proof.Machine

/-! SUPPORT. Reset and the hazards the host must respect: what is refused while reset is asserted, when the storage
registers are sampled, and where RESULT holds a hash (spec/70_reset_and_hazards.md R180, R183 to R185). -/

namespace Sys2Proof.Machine

open Sys2Proof

/-! ### Reset -/

/-- While reset is asserted an access selects no register, whatever it names (R180). -/
theorem selectReg_of_reset {s : State} (hl : s.resetLine = true) (bits : Nat) (target : Target) :
    selectReg bits target s = .error .heldInReset := by
  rw [selectReg, if_pos hl]

theorem driveReset_assert (s : State) : driveReset true s = { s with resetLine := true } :=
  if_pos rfl

theorem driveReset_release_of_low {s : State} (hl : s.resetLine = false) : driveReset false s = s := by
  simp [driveReset, hl]

/-- Settles O46: the reset input is driven by its level, and an access selects no register while it is high. -/
theorem noAccessAdmittedInReset : Obligations.NoAccessAdmittedInReset := by
  refine fun s rest => ⟨fun hi => ?asserted, fun hl hi => ?released, fun hl bits target v access => ?refused⟩
  case asserted => rw [step_of_inbox_drive hi, driveReset_assert]
  case released => rw [step_of_inbox_drive hi, driveReset_release_of_low (s := { s with inbox := rest }) hl]
  case refused =>
    have refused : selectReg bits target { s with inbox := rest } = .error .heldInReset := selectReg_of_reset hl bits target
    rcases access with hi | hi
    · exact step_of_selectReg_error (v := v) (.inl rfl) hi refused
    · exact step_of_selectReg_error (.inr rfl) hi refused

/-! ### When SEED, LEN and DATA are sampled -/

/-- A change `f` of the state has no effect on a command word, if `f` changes neither the error the word reports nor what
recording one does, and commutes with what the word's command does when it succeeds. -/
theorem runCommand_commutes {f : State → State} {w : Word} {s : State} (sameError : firstError w (f s) = firstError w s)
    (raises : ∀ e, raiseCmdError e (f s) = f (raiseCmdError e s))
    (performs : ∀ i, decode w = .instr i → performed (f s) i = f (performed s i)) :
    ∃ t, runCommand w s = .next t ∧ runCommand w (f s) = .next (f t) := by
  cases reported : firstError w s with
  | some e =>
    refine ⟨_, runCommand_of_firstError reported, ?_⟩
    rw [runCommand_of_firstError (sameError.trans reported), raises]
  | none =>
    obtain ⟨i, hd, hr⟩ := runCommand_of_no_error reported
    obtain ⟨i', hd', hr'⟩ := runCommand_of_no_error (sameError.trans reported)
    cases hd.symm.trans hd'
    exact ⟨_, hr, by rw [hr', performs i hd]⟩

/-- Of the commands only START takes the values of SEED and LEN (R122, R183). -/
theorem performed_of_seed_len (s : State) (sd ln : Word) {i : Instr} (hi : i ≠ .start) :
    performed { s with seedr := sd, lenr := ln } i = { performed s i with seedr := sd, lenr := ln } := by
  cases i with
  | start => exact absurd rfl hi
  | nop | absorb | finish | abort => rfl

/-- Of the commands only ABSORB takes the lanes of DATA (R123, R184). -/
theorem performed_of_data (s : State) (d : Word) {i : Instr} (hi : ∀ n, i ≠ .absorb n) :
    performed { s with datar := d } i = { performed s i with datar := d } := by
  cases i with
  | absorb n => exact absurd rfl (hi n)
  | nop | start | finish | abort => rfl

/-- Settles O37: the causes of the errors do not name SEED and LEN, and only START takes them. -/
theorem seedAndLenSampledOnlyAtStart : Obligations.SeedAndLenSampledOnlyAtStart := by
  intro w s sd ln other
  refine runCommand_commutes (f := fun s => { s with seedr := sd, lenr := ln }) rfl (fun _ => rfl) fun i hd => ?_
  exact performed_of_seed_len s sd ln fun hi => other (by rw [hd, hi])

/-- Settles O38: the causes of the errors do not name DATA, and only ABSORB takes it. -/
theorem dataSampledOnlyAtAbsorb : Obligations.DataSampledOnlyAtAbsorb := by
  intro w s d other
  refine runCommand_commutes (f := fun s => { s with datar := d }) rfl (fun _ => rfl) fun i hd => ?_
  exact performed_of_data s d fun n hi => other n (by rw [hd, hi])

/-! ### RESULT -/

/-- Settles O55: outside DONE the result is 0 (R35 item 5), in DONE it is the accumulator (R35 item 4). -/
theorem resultReadsZeroOutsideDone : Obligations.ResultReadsZeroOutsideDone := by
  intro s inv
  show s.res = if s.phase = .done then s.h else 0
  split
  next done =>
    obtain ⟨-, -, -, hres⟩ := inv.done_result done
    exact hres.symm
  next other => exact inv.res_zero other

end Sys2Proof.Machine

/-! SUPPORT. Decoder and encoder as inverses, the listed command words and hashes of spec/95_test_vectors.md, and what no
command touches (spec/30_encoding.md R70 to R78, spec/41_stream_commands.md R120). -/

namespace Sys2Proof.Machine

open Sys2Proof

/-! ### Decode and encode -/

/-- Settles O2. -/
theorem encodeThenDecodeIsIdentity : Obligations.EncodeThenDecodeIsIdentity :=
  fun _ => decode_encode_of_wf

/-- Settles O3: the decoder's tests fix every field of a word they accept. -/
theorem decodeThenEncodeIsIdentity : Obligations.DecodeThenEncodeIsIdentity :=
  fun _ _ => wf_and_encode_of_decode

/-- A reserved encoding is no command (R74 to R76). -/
theorem toInstr_decode_of_reservedEncoding {w : Word} (reserved : ReservedEncoding w) : (decode w).toInstr = none := by
  cases hd : decode w with
  | illegal r => rfl
  | instr i =>
    obtain ⟨hwf, rfl⟩ := decode_eq_instr.mp hd
    exact absurd reserved (encode_not_reservedEncoding hwf)

/-- Settles O1: the table's first eight words are words of commands, the others are reserved encodings. -/
theorem specWordsDecodeAsListed : Obligations.SpecWordsDecodeAsListed := by
  refine ⟨?nop, ?start, ?absorb1, ?absorb8, ?absorb0, ?absorb15, ?finish, ?abort, ?_, ?_, ?_, ?_, ?_, ?_, ?_⟩
  case nop => exact decode_encode_of_wf (i := .nop) rfl
  case start => exact decode_encode_of_wf (i := .start) rfl
  case absorb1 => exact decode_encode_of_wf (i := .absorb 1) rfl
  case absorb8 => exact decode_encode_of_wf (i := .absorb 8) rfl
  case absorb0 => exact decode_encode_of_wf (i := .absorb 0) rfl
  case absorb15 => exact decode_encode_of_wf (i := .absorb 15) rfl
  case finish => exact decode_encode_of_wf (i := .finish) rfl
  case abort => exact decode_encode_of_wf (i := .abort) rfl
  all_goals exact toInstr_decode_of_reservedEncoding (by decide)

/-! ### What no command touches -/

/-- No successful command touches the reset input, the waiting events or the replies (R120). -/
theorem performed_keeps_hostSide (s : State) (i : Instr) :
    (performed s i).resetLine = s.resetLine ∧ (performed s i).inbox = s.inbox ∧ (performed s i).replies = s.replies := by
  cases i with
  | nop | start | absorb | finish | abort => exact ⟨rfl, rfl, rfl⟩

/-- Settles O30: a command word raises an error, which writes the flags only, or its command is performed. -/
theorem everyCommandWordCompletes : Obligations.EveryCommandWordCompletes := by
  intro w s
  rcases runCommand_reports_or_performs w s with ⟨e, -, raised⟩ | ⟨i, -, -, done⟩
  · exact ⟨raiseCmdError e s, raised, rfl, rfl, rfl, rfl, rfl, rfl⟩
  · obtain ⟨hseed, hlen, hdata⟩ := runCommand_keeps_storage done
    exact ⟨performed s i, done, hseed, hlen, hdata, performed_keeps_hostSide s i⟩

/-! ### Known answers -/

/-- Settles O14. -/
theorem knownAnswers : Obligations.KnownAnswers :=
  ⟨by decide, by decide, by decide⟩

end Sys2Proof.Machine
